-- ==== Sys2Proof/Word.lean ====
section
/-!
DEFINITION. The words of the modem protocol block (00_scope.md R6): octets and 7-bit sequence numbers.
A line bit is a `Bool`, 1 being `true`.
-/

namespace Sys2Proof

/-- An octet: 8 bits (R6). -/
abbrev Octet := BitVec 8

/-- A sequence number: 7 bits, so its arithmetic is modulo 128 (R6, R14). -/
abbrev SeqNum := BitVec 7

end Sys2Proof
end

