-- ==== Sys2Proof/Config.lean ====
section
/-!
DEFINITION. The implementation parameters of 00_scope.md R4. A parameter with a value in R4 is a constant here; an OPEN
parameter is a field of `Params`, which State carries (log 1), so that every statement about a state is a statement
about every choice of the open parameters.
-/

namespace Sys2Proof

namespace Config

/-- CW_RESERVED (R4): codewords below it are control codewords. -/
def cwReserved : Nat := 3

/-- CW_FIRST (R4): the first dynamic codeword, CW_RESERVED + ALPHABET_SIZE. -/
def cwFirst : Nat := 259

/-- CW_SIZE_INIT (R4). -/
def cwSizeInit : Nat := 9

/-- CW_THRESH_INIT (R4). -/
def cwThreshInit : Nat := 512

/-- ESC_STEP (R4): what the escape code rolls by. -/
def escStep : Octet := 51

/-- TEST_PERIOD_COMPRESSED (R4). -/
def testPeriodCompressed : Nat := 256

/-- TEST_PERIOD_TRANSPARENT (R4). -/
def testPeriodTransparent : Nat := 64

/-- TEST_GAIN (R4). -/
def testGain : Int := 16

/-- TEST_LOSS (R4). -/
def testLoss : Int := -16

/-- T400, the detection timer's duration in time units (R4). -/
def t400 : Nat := 750

/-- T403, the inactivity timer's duration in time units (R4). -/
def t403 : Nat := 1000

/-- TX_STOP_BITS_DEFAULT (R4). -/
def txStopBitsDefault : Nat := 1

/-- ADP_STOP_BITS (R4). -/
def adpStopBits : Nat := 9

/-- ODP_CHARS (R4): DC1 with parity bit 0. -/
def dc1Even : Octet := 0x11

/-- ODP_CHARS (R4): DC1 with parity bit 1. -/
def dc1Odd : Octet := 0x91

/-- ODP_STOP_BITS (R4). -/
def odpStopBits : List Nat := [9, 17]

/-- ODP_REPEAT (R4). -/
def odpRepeat : BitVec 3 := 4

/-- ADP_CHARS (R4): `E`. -/
def adpE : Octet := 0x45

/-- ADP_CHARS (R4): `C`. -/
def adpC : Octet := 0x43

/-- STOPBIT_LOG_GAP (R4). -/
def stopbitLogGap : BitVec 3 := 4

/-- FLAG (R4). -/
def flag : Octet := 0x7E

/-- XID_FI (R4). -/
def xidFi : Octet := 0x82

/-- XID_GID_PUBLIC (R4). -/
def xidGidPublic : Octet := 0x80

/-- XID_GID_PRIVATE (R4). -/
def xidGidPrivate : Octet := 0xF0

/-- XID_GID_USER (R4). -/
def xidGidUser : Octet := 0xFF

/-- The codeword ETM (R4, R62). -/
def cwEtm : Nat := 0

/-- The codeword FLUSH (R4, R62). -/
def cwFlush : Nat := 1

/-- The codeword STEPUP (R4, R62). -/
def cwStepup : Nat := 2

/-- Public parameter identifiers that are known and have no effect (R60, R146). -/
def xidPublicKnown : List Octet := [0x03, 0x05, 0x07]

/-- Private parameter identifiers that are known and have no effect (R60, R146). -/
def xidPrivateKnown : List Octet := [0x00, 0x02, 0x03]

end Config

/-- The OPEN parameters of R4, fixed at construction (R19). `TIME_UNIT` is a unit only and is no field (log 18). -/
structure Params where
  maxCodeWords     : Nat
  maxStringLength  : Nat
  txMaxSizeDefault : Nat
  txWindowDefault  : Nat
  addrCmd          : Octet
  keepaliveP       : Bool
  ctlSabme         : Octet
  ctlDisc          : Octet
  ctlUa            : Octet
  ctlXid           : Octet
  ctlRr            : Octet
  ctlRnr           : Octet
  ctlRej           : Octet
  ctlSrej          : Octet
  ecm              : Octet
  eid              : Octet
  resetCmd         : Octet
  xidPidTxsize     : Octet
  xidPidWindow     : Octet
  xidPidCompreq    : Octet
  xidLenDiv        : Nat
  compEnabled      : Bool
deriving DecidableEq, Repr

namespace Params

/-- The defaults of R4; for `maxCodeWords` and `maxStringLength`, which have none, the first values the test vectors use
(log 1, DESIGN CHOICE). The values R4 marks GK are PRESUMED (log 1). -/
def defaults : Params where
  maxCodeWords     := 2048
  maxStringLength  := 32
  txMaxSizeDefault := 128
  txWindowDefault  := 15
  addrCmd          := 0x03
  keepaliveP       := true
  ctlSabme         := 0x6F
  ctlDisc          := 0x43
  ctlUa            := 0x63
  ctlXid           := 0xAF
  ctlRr            := 0x01
  ctlRnr           := 0x05
  ctlRej           := 0x09
  ctlSrej          := 0x0D
  ecm              := 0
  eid              := 1
  resetCmd         := 2
  xidPidTxsize     := 0x06
  xidPidWindow     := 0x08
  xidPidCompreq    := 0x01
  xidLenDiv        := 8
  compEnabled      := false

/-- An S code: bits 1..0 are 01 (R57, R55). -/
def isSCode (c : Octet) : Bool := c.getLsbD 0 && !c.getLsbD 1

/-- A U code with its P/F bit cleared: bits 1..0 are 11 and bit 4 is clear (R58, R55). -/
def isUCode (c : Octet) : Bool := c.getLsbD 0 && c.getLsbD 1 && !c.getLsbD 4

/-- The four S codes of R57. -/
def sCodes (p : Params) : List Octet := [p.ctlRr, p.ctlRnr, p.ctlRej, p.ctlSrej]

/-- The four U codes of R58. -/
def uCodes (p : Params) : List Octet := [p.ctlSabme, p.ctlDisc, p.ctlUa, p.ctlXid]

/-- The three commands of the transparent stream (R61). -/
def commands (p : Params) : List Octet := [p.ecm, p.eid, p.resetCmd]

/-- The constraints the spec puts on the open parameters: R4's column "value", 92_eei_decisions.md D30 and its section 6.
Two conjuncts are DEDUCED (log 1): that the divisor `XID_LEN_DIV` is not 0, and that the two public identifiers that
have an effect (R146) differ. -/
def wf (p : Params) : Bool :=
  [512, 1024, 2048, 4096, 8192, 16384, 32768, 65536].contains p.maxCodeWords
  && decide (1 ≤ p.maxStringLength) && decide (p.maxStringLength ≤ 250)
  && decide (p.maxStringLength + Config.cwFirst ≤ p.maxCodeWords)
  && decide (1 ≤ p.txWindowDefault) && decide (p.txWindowDefault ≤ 64)
  && p.sCodes.all isSCode && decide p.sCodes.Nodup
  && p.uCodes.all isUCode && decide p.uCodes.Nodup
  && decide p.commands.Nodup
  && decide (p.xidPidTxsize ≠ p.xidPidWindow) && decide (1 ≤ p.xidLenDiv)

end Params

end Sys2Proof
end

