-- ==== Sys2Proof/Syntax.lean ====
section
/-!
DEFINITION. What the outside world can present to the block (`Input`) and the instructions (`Instr`): one constructor for
each row of spec/opcode_table.json, the 25 host operations of 30_encoding.md R52 first, then the 33 wire-format patterns
in the table's order.
-/

namespace Sys2Proof

/-- One thing that the outside world presents to the block (70_reset_and_hazards.md R263). Every kind but the last is
decoded to one instruction; how the octets and bits of each kind are laid out is said in Decode.lean (logs 5 and 8). -/
inductive Input where
  /-- An operation at the operation port (R51): the selector octet, then the operand octets. -/
  | op (octets : List Octet)
  /-- A pattern of line bits (formats V14CHAR and HFRAME), first bit first, at time `now`. -/
  | line (bits : List Bool) (now : Nat)
  /-- A frame whose good FCS has been taken off (formats CTL_I, CTL_S, CTL_U): address octet first. -/
  | frame (octets : List Octet) (now : Nat)
  /-- An item at the top level of an XID information field (format XIDINFO): the format identifier or a group. -/
  | xidTop (addr : Octet) (pf : Bool) (octets : List Octet) (now : Nat)
  /-- A parameter inside the group `gi` of an XID information field (format XIDINFO). -/
  | xidParam (gi addr : Octet) (pf : Bool) (octets : List Octet) (now : Nat)
  /-- An item of the transparent stream (format TSTREAM): a data octet, or, when `escaped`, the command octet of a pair
  whose first octet is the decoder's current escape code (R61). -/
  | stream (escaped : Bool) (b : Octet)
  /-- A codeword (format CODEWORD), its value. -/
  | codeword (w : Nat)
  /-- No operation: octets become available at the byte source (20_memory.md R37). -/
  | supply (octets : List Octet)
deriving DecidableEq, Repr

/-- The instructions: one constructor for each row of spec/opcode_table.json. In a wire-format row `now` is the time at
which the pattern's bits arrive, `addr` the frame's address octet (R59) and `pf` its P/F bit. (ADP written without a time is
ADP at time 0.) -/
inductive Instr where
  -- HOSTOP, unit V
  | v14Setsb (n : Nat)
  | v14Tx (b : Octet)
  | v14Flush
  | v14Rx (b : Octet)
  | v14Rsb
  | v14Pop
  | v14Reset
  | v14Rxbit (b : Bool)
  -- HOSTOP, unit H
  | hCrc16 (m : List Octet)
  | hSendframe (f : List Octet)
  | hSendflag
  | hRxbit (b : Bool)
  | hPop
  | hReset
  -- HOSTOP, unit L
  | lRxbit (b : Bool) (now : Nat)
  | lTxbit (now : Nat)
  | lReset
  -- HOSTOP, unit C
  | cWrite (b : Octet)
  | cCmode
  | cFlush
  | cReset
  | cPop
  -- HOSTOP, unit D
  | dWrite (b : Octet)
  | dReset
  | dPop
  -- V14CHAR (R53, R66)
  | v14Char (d : Octet) (stops : Nat) (now : Nat)
  | odp (parity : Bool) (stops : Nat) (now : Nat)
  | adp (now : Nat := 0)
  -- HFRAME (R102, R105, R54); the octets of `frame` are those between the flags, FCS included
  | flag (now : Nat)
  | abort (ones : Nat) (now : Nat)
  | frame (octets : List Octet) (now : Nat)
  -- CTL_I (R56)
  | iFrame (addr : Octet) (ns nr : SeqNum) (p : Bool) (info : List Octet) (now : Nat)
  -- CTL_S (R57)
  | rr (addr : Octet) (nr : SeqNum) (pf : Bool) (now : Nat)
  | rnr (addr : Octet) (nr : SeqNum) (pf : Bool) (now : Nat)
  | rej (addr : Octet) (nr : SeqNum) (pf : Bool) (now : Nat)
  | srej (addr : Octet) (nr : SeqNum) (pf : Bool) (now : Nat)
  | sOther (addr code : Octet) (nr : SeqNum) (pf : Bool) (now : Nat)
  -- CTL_U (R58)
  | sabme (addr : Octet) (pf : Bool) (now : Nat)
  | disc (addr : Octet) (pf : Bool) (now : Nat)
  | ua (addr : Octet) (pf : Bool) (now : Nat)
  | xid (addr : Octet) (pf : Bool) (info : List Octet) (now : Nat)
  | uOther (addr code : Octet) (pf : Bool) (now : Nat)
  -- XIDINFO (R60)
  | xidFi (addr : Octet) (pf : Bool) (now : Nat)
  | xidGroupPublic (addr : Octet) (pf : Bool) (content : List Octet) (now : Nat)
  | xidGroupPrivate (addr : Octet) (pf : Bool) (content : List Octet) (now : Nat)
  | xidGroupUserdata (addr : Octet) (pf : Bool) (content : List Octet) (now : Nat)
  | xidParamTxsize (addr : Octet) (pf : Bool) (pv : List Octet) (now : Nat)
  | xidParamWindow (addr : Octet) (pf : Bool) (pv : List Octet) (now : Nat)
  | xidParamCompreq (addr : Octet) (pf : Bool) (pv : List Octet) (now : Nat)
  -- TSTREAM (R61)
  | tData (b : Octet)
  | ecm
  | eid
  | tReset
  | tBadcmd (cmd : Octet)
  -- CODEWORD (R62)
  | cwEtm
  | cwFlush
  | cwStepup
  | cwData (w : Nat)
deriving DecidableEq, Repr

end Sys2Proof
end

