-- ==== Sys2Proof/WellFormed.lean ====
section
/-!
DEFINITION. Which terms of `Instr` are instructions: the constraints that the encodings of 30_encoding.md put on operands.
A host operation is always well formed: `V14.SETSB 0` is an operation, one that the block refuses (R80).
-/

namespace Sys2Proof

/-- Whether the last instruction's operands are values its encoding can carry, under the parameters `p`. -/
def wellFormed (p : Params) : Instr → Bool
  | .v14Setsb _ | .v14Tx _ | .v14Flush | .v14Rx _ | .v14Rsb | .v14Pop | .v14Reset | .v14Rxbit _ => true
  | .hCrc16 _ | .hSendframe _ | .hSendflag | .hRxbit _ | .hPop | .hReset => true
  | .lRxbit _ _ | .lTxbit _ | .lReset => true
  | .cWrite _ | .cCmode | .cFlush | .cReset | .cPop => true
  | .dWrite _ | .dReset | .dPop => true
  -- R53: one or more stop bits; a DC1 with 9 or 17 stop bits is the row ODP (R66)
  | .v14Char d stops _ =>
    decide (1 ≤ stops) && !((d == Config.dc1Even || d == Config.dc1Odd) && Config.odpStopBits.contains stops)
  | .odp _ stops _ => Config.odpStopBits.contains stops
  | .adp _ => true
  | .flag _ => true
  -- R105: seven or more consecutive 1 bits
  | .abort ones _ => decide (7 ≤ ones)
  -- R54: the shortest legal frame has 4 octets
  | .frame octets _ => decide (4 ≤ octets.length)
  | .iFrame _ _ _ _ _ _ => true
  | .rr _ _ _ _ | .rnr _ _ _ _ | .rej _ _ _ _ | .srej _ _ _ _ => true
  | .sOther _ code _ _ _ => Params.isSCode code && !p.sCodes.contains code
  | .sabme _ _ _ | .disc _ _ _ | .ua _ _ _ | .xid _ _ _ _ => true
  | .uOther _ code _ _ => Params.isUCode code && !p.uCodes.contains code
  | .xidFi _ _ _ => true
  -- R60: a group length is two octets, a parameter length one
  | .xidGroupPublic _ _ content _ => decide (content.length < 65536)
  | .xidGroupPrivate _ _ content _ => decide (content.length < 65536)
  | .xidGroupUserdata _ _ content _ => decide (content.length < 65536)
  | .xidParamTxsize _ _ pv _ => decide (pv.length < 256)
  | .xidParamWindow _ _ pv _ => decide (pv.length < 256)
  | .xidParamCompreq _ _ pv _ => decide (pv.length < 256)
  | .tData _ | .ecm | .eid | .tReset => true
  -- R61 (e): any other octet after the escape code
  | .tBadcmd cmd => !p.commands.contains cmd
  | .cwEtm | .cwFlush | .cwStepup => true
  -- R62: a data codeword is 3 or more and has at most 16 bits
  | .cwData w => decide (Config.cwReserved ≤ w) && decide (w < 65536)

end Sys2Proof
end

