-- ==== Sys2Proof/Decode.lean ====
section
/-!
DEFINITION. Bit and octet layouts (20_memory.md R31 to R33), the decoder of everything the outside world can present, and
the encoder, both written from 30_encoding.md. The layout of a presentation that the spec does not fix (operands behind a
selector, what accompanies a wire pattern) is log 5 and log 8.
-/

namespace Sys2Proof

/-! ### Bits and octets -/

/-- The eight line bits of an octet, bit 0 first (R31). -/
def octetBits (o : Octet) : List Bool :=
  [o.getLsbD 0, o.getLsbD 1, o.getLsbD 2, o.getLsbD 3, o.getLsbD 4, o.getLsbD 5, o.getLsbD 6, o.getLsbD 7]

/-- The line bits of an octet list, in order (R31). -/
def octetsBits (l : List Octet) : List Bool := l.flatMap octetBits

/-- The octet whose low bits are the given line bits, the first in bit 0 (R31). -/
def octetOfBits : List Bool → Octet
  | [] => 0
  | b :: bs => (octetOfBits bs <<< 1) ||| (if b then 1 else 0)

/-- The whole octets of a bit string, eight bits each, the first in bit 0; bits beyond the last whole octet are dropped. -/
def packOctets : List Bool → List Octet
  | b0 :: b1 :: b2 :: b3 :: b4 :: b5 :: b6 :: b7 :: rest => octetOfBits [b0, b1, b2, b3, b4, b5, b6, b7] :: packOctets rest
  | _ => []

/-- A natural number as an operand: all the octets that remain, the low octet first (log 5). -/
def natOfOctets : List Octet → Nat
  | [] => 0
  | o :: os => o.toNat + 256 * natOfOctets os

/-- The low-octet-first octets of a number, none for 0; `fuel` bounds their count. -/
def octetsOfNatFuel : Nat → Nat → List Octet
  | 0, _ => []
  | fuel + 1, n => if n = 0 then [] else BitVec.ofNat 8 (n % 256) :: octetsOfNatFuel fuel (n / 256)

/-- The low-octet-first octets of a number, none for 0 (log 5). -/
def octetsOfNat (n : Nat) : List Octet := octetsOfNatFuel n n

/-- A value of several octets, high octet first (R33 (b), (c)). -/
def natOfOctetsBE : List Octet → Nat
  | [] => 0
  | o :: os => o.toNat * 256 ^ os.length + natOfOctetsBE os

/-- A two-octet field, high octet first (R33 (b)). -/
def octets2BE (n : Nat) : List Octet := [BitVec.ofNat 8 (n / 256), BitVec.ofNat 8 n]

/-! ### Control octets (R56 to R58) -/

/-- `(n << 1) | b`: a sequence number in bits 7..1 and one bit in bit 0 (R56, R57). -/
def seqOctet (n : SeqNum) (b : Bool) : Octet := (n.zeroExtend 8 <<< 1) ||| (if b then 1 else 0)

/-- Bits 7..1 of an octet (R56, R57). -/
def seqField (o : Octet) : SeqNum := o.extractLsb' 1 7

/-- A U control octet: the code with P/F in bit 4 (R58). -/
def uOctet (code : Octet) (pf : Bool) : Octet := code ||| (if pf then 0x10 else 0)

/-- The code of a U control octet, P/F masked (R58). -/
def uCode (c : Octet) : Octet := c &&& 0xEF

/-- P/F of a U control octet (R58). -/
def uPf (c : Octet) : Bool := c.getLsbD 4

/-! ### Line patterns (R53, R66, R54) -/

/-- One V.14 character on the line: start bit 0, the data bits, `stops` stop bits (R53). -/
def charBits (d : Octet) (stops : Nat) : List Bool := false :: (octetBits d ++ List.replicate stops true)

/-- The DC1 character with the given parity bit (R66). -/
def dc1 (parity : Bool) : Octet := if parity then Config.dc1Odd else Config.dc1Even

/-- ADP: `E` then `C`, each with nine stop bits (R66). -/
def adpBits : List Bool := charBits Config.adpE Config.adpStopBits ++ charBits Config.adpC Config.adpStopBits

/-- The flag on the line: 0,1,1,1,1,1,1,0 (R32). -/
def flagBits : List Bool := octetBits Config.flag

/-- Zero-bit insertion: a 0 after every fifth consecutive 1; `k` is the number of 1s just sent (R54, R103). -/
def stuffBits : Nat → List Bool → List Bool
  | _, [] => []
  | k, true :: bs => if k = 4 then true :: false :: stuffBits 0 bs else true :: stuffBits (k + 1) bs
  | _, false :: bs => false :: stuffBits 0 bs

/-- The inverse of zero-bit insertion; `none` where six consecutive 1s stand or the string ends before an inserted 0. -/
def destuffBits : Nat → List Bool → Option (List Bool)
  | k, [] => if k = 5 then none else some []
  | k, true :: bs => if k = 5 then none else (destuffBits (k + 1) bs).map (true :: ·)
  | k, false :: bs => if k = 5 then destuffBits 0 bs else (destuffBits 0 bs).map (false :: ·)

/-- A frame on the line: opening flag, the stuffed octets, closing flag (R54). -/
def frameBits (octets : List Octet) : List Bool := flagBits ++ (stuffBits 0 (octetsBits octets) ++ flagBits)

/-! ### Decoding -/

/-- Why a presentation is no instruction. -/
inductive DecodeError where
  /-- The selector is not in R52, or there is none (R51). -/
  | unknownSelector
  /-- Too few or too many operand octets for the operation (log 5). -/
  | operandCount
  /-- A bit operand that is neither 0 nor 1 (R52, log 5). -/
  | bitRange
  /-- The line bits are none of the patterns of R53, R66, R54, R105. -/
  | notALinePattern
  /-- The octets are no frame of R56 to R58. -/
  | notAFrame
  /-- The octets are no item of R60 that has a row. -/
  | notAnXidItem
  /-- The codeword has more than 16 bits (R62). -/
  | codewordRange
  /-- Octets for the byte source: no operation (R37). -/
  | notAnOperation
deriving DecidableEq, Repr

/-- An operation without operands. -/
def noOperand (args : List Octet) (i : Instr) : Except DecodeError Instr :=
  match args with
  | [] => .ok i
  | _ :: _ => .error .operandCount

/-- An operation whose operand is one octet. -/
def octetOperand (args : List Octet) (f : Octet → Instr) : Except DecodeError Instr :=
  match args with
  | [b] => .ok (f b)
  | _ => .error .operandCount

/-- A bit operand: one octet, 0 or 1, then what follows (log 5). -/
def bitOperand (args : List Octet) (f : Bool → List Octet → Except DecodeError Instr) : Except DecodeError Instr :=
  match args with
  | [] => .error .operandCount
  | b :: rest => if b = 0 then f false rest else if b = 1 then f true rest else .error .bitRange

/-- The operation port (R51, R52): a selector octet and its operands. -/
def decodeOp : List Octet → Except DecodeError Instr
  | [] => .error .unknownSelector
  | sel :: args =>
    match sel.toNat with
    | 0x10 => .ok (.v14Setsb (natOfOctets args))
    | 0x11 => octetOperand args .v14Tx
    | 0x12 => noOperand args .v14Flush
    | 0x13 => octetOperand args .v14Rx
    | 0x14 => noOperand args .v14Rsb
    | 0x15 => noOperand args .v14Pop
    | 0x16 => noOperand args .v14Reset
    | 0x17 => bitOperand args fun b rest => noOperand rest (.v14Rxbit b)
    | 0x20 => .ok (.hCrc16 args)
    | 0x21 => .ok (.hSendframe args)
    | 0x22 => noOperand args .hSendflag
    | 0x23 => bitOperand args fun b rest => noOperand rest (.hRxbit b)
    | 0x24 => noOperand args .hPop
    | 0x25 => noOperand args .hReset
    | 0x30 => bitOperand args fun b rest => .ok (.lRxbit b (natOfOctets rest))
    | 0x31 => .ok (.lTxbit (natOfOctets args))
    | 0x32 => noOperand args .lReset
    | 0x40 => octetOperand args .cWrite
    | 0x41 => noOperand args .cCmode
    | 0x42 => noOperand args .cFlush
    | 0x43 => noOperand args .cReset
    | 0x44 => noOperand args .cPop
    | 0x50 => octetOperand args .dWrite
    | 0x51 => noOperand args .dReset
    | 0x52 => noOperand args .dPop
    | _ => .error .unknownSelector

/-- The bits between an opening and a closing flag, if the string has both and at least those 16 bits. -/
def betweenFlags (bits : List Bool) : Option (List Bool) :=
  if 16 ≤ bits.length ∧ bits.take 8 = flagBits ∧ bits.drop (bits.length - 8) = flagBits then
    some ((bits.drop 8).take (bits.length - 16))
  else none

/-- A frame of at least four octets between flags (R54). -/
def decodeFrameBits (bits : List Bool) : Option (List Octet) :=
  match (betweenFlags bits).bind (destuffBits 0) with
  | none => none
  | some raw => if raw.length % 8 = 0 ∧ 32 ≤ raw.length then some (packOctets raw) else none

/-- One V.14 character: start bit, data bits, one or more stop bits and nothing else (R53); ODP's characters apart (R66). -/
def decodeCharBits (bits : List Bool) (now : Nat) : Except DecodeError Instr :=
  match bits with
  | false :: b0 :: b1 :: b2 :: b3 :: b4 :: b5 :: b6 :: b7 :: true :: rest =>
    if rest.all id then
      let d := octetOfBits [b0, b1, b2, b3, b4, b5, b6, b7]
      let stops := rest.length + 1
      if (d == Config.dc1Even || d == Config.dc1Odd) && Config.odpStopBits.contains stops then
        .ok (.odp (d == Config.dc1Odd) stops now)
      else .ok (.v14Char d stops now)
    else .error .notALinePattern
  | _ => .error .notALinePattern

/-- The patterns of line bits, formats V14CHAR and HFRAME (R53, R66, R32, R105, R54). -/
def decodeLine (bits : List Bool) (now : Nat) : Except DecodeError Instr :=
  if bits = flagBits then .ok (.flag now)
  else if 7 ≤ bits.length ∧ bits.all id then .ok (.abort bits.length now)
  else if bits = adpBits then .ok (.adp now)
  else
    match decodeFrameBits bits with
    | some octets => .ok (.frame octets now)
    | none => decodeCharBits bits now

/-- An S frame's code (R57): RR, RNR, REJ, SREJ, or another with bits 1..0 = 01. -/
def decodeS (p : Params) (addr c : Octet) (nr : SeqNum) (pf : Bool) (now : Nat) : Instr :=
  if c = p.ctlRr then .rr addr nr pf now
  else if c = p.ctlRnr then .rnr addr nr pf now
  else if c = p.ctlRej then .rej addr nr pf now
  else if c = p.ctlSrej then .srej addr nr pf now
  else .sOther addr c nr pf now

/-- A U frame's code (R58): SABME, DISC, UA, XID, or another with bits 1..0 = 11. `rest` is the information field of XID; behind
any other code its octets are ignored (R132, R142; log 8). -/
def decodeU (p : Params) (addr code : Octet) (pf : Bool) (rest : List Octet) (now : Nat) : Instr :=
  if code = p.ctlXid then .xid addr pf rest now
  else if code = p.ctlSabme then .sabme addr pf now
  else if code = p.ctlDisc then .disc addr pf now
  else if code = p.ctlUa then .ua addr pf now
  else .uOther addr code pf now

/-- A frame, address first, without its FCS: the class of octet 1 in the order of R55. Octets behind the second control octet of
an S frame are ignored (R132; log 8). -/
def decodeFrame (p : Params) (octets : List Octet) (now : Nat) : Except DecodeError Instr :=
  match octets with
  | addr :: c :: rest =>
    if c.getLsbD 0 = false then
      match rest with
      | c2 :: info => .ok (.iFrame addr (seqField c) (seqField c2) (c2.getLsbD 0) info now)
      | [] => .error .notAFrame
    else if c.getLsbD 1 = false then
      match rest with
      | c2 :: _ => .ok (decodeS p addr c (seqField c2) (c2.getLsbD 0) now)
      | [] => .error .notAFrame
    else .ok (decodeU p addr (uCode c) (uPf c) rest now)
  | _ => .error .notAFrame

/-- An item at the top level of an XID information field (R60): the format identifier, or a whole group. -/
def decodeXidTop (addr : Octet) (pf : Bool) (octets : List Octet) (now : Nat) : Except DecodeError Instr :=
  match octets with
  | [fi] => if fi = Config.xidFi then .ok (.xidFi addr pf now) else .error .notAnXidItem
  | gi :: hi :: lo :: content =>
    if content.length = natOfOctetsBE [hi, lo] then
      if gi = Config.xidGidPublic then .ok (.xidGroupPublic addr pf content now)
      else if gi = Config.xidGidPrivate then .ok (.xidGroupPrivate addr pf content now)
      else if gi = Config.xidGidUser then .ok (.xidGroupUserdata addr pf content now)
      else .error .notAnXidItem
    else .error .notAnXidItem
  | _ => .error .notAnXidItem

/-- A parameter of the group `gi` (R60) that has a row. -/
def decodeXidParam (p : Params) (gi addr : Octet) (pf : Bool) (octets : List Octet) (now : Nat) :
    Except DecodeError Instr :=
  match octets with
  | pi :: pl :: pv =>
    if pv.length = pl.toNat then
      if gi = Config.xidGidPublic ∧ pi = p.xidPidTxsize then .ok (.xidParamTxsize addr pf pv now)
      else if gi = Config.xidGidPublic ∧ pi = p.xidPidWindow then .ok (.xidParamWindow addr pf pv now)
      else if gi = Config.xidGidPrivate ∧ pi = p.xidPidCompreq then .ok (.xidParamCompreq addr pf pv now)
      else .error .notAnXidItem
    else .error .notAnXidItem
  | _ => .error .notAnXidItem

/-- An item of the transparent stream (R61). -/
def decodeStream (p : Params) (escaped : Bool) (b : Octet) : Instr :=
  if escaped then
    if b = p.ecm then .ecm
    else if b = p.eid then .eid
    else if b = p.resetCmd then .tReset
    else .tBadcmd b
  else .tData b

/-- A codeword (R62). -/
def decodeCodeword (w : Nat) : Except DecodeError Instr :=
  if w = Config.cwEtm then .ok .cwEtm
  else if w = Config.cwFlush then .ok .cwFlush
  else if w = Config.cwStepup then .ok .cwStepup
  else if w < 65536 then .ok (.cwData w)
  else .error .codewordRange

/-- The decoder, total on every presentation. -/
def decode (p : Params) : Input → Except DecodeError Instr
  | .op octets => decodeOp octets
  | .line bits now => decodeLine bits now
  | .frame octets now => decodeFrame p octets now
  | .xidTop addr pf octets now => decodeXidTop addr pf octets now
  | .xidParam gi addr pf octets now => decodeXidParam p gi addr pf octets now
  | .stream escaped b => .ok (decodeStream p escaped b)
  | .codeword w => decodeCodeword w
  | .supply _ => .error .notAnOperation

/-! ### Encoding -/

/-- A bit operand's octet (log 5). -/
def bitOctet (b : Bool) : Octet := if b then 1 else 0

/-- A group of an XID information field: identifier, length high octet first, content (R60). -/
def xidGroupOctets (gi : Octet) (content : List Octet) : List Octet := gi :: (octets2BE content.length ++ content)

/-- A parameter of an XID group: identifier, length, value (R60). -/
def xidParamOctets (pi : Octet) (pv : List Octet) : List Octet := pi :: BitVec.ofNat 8 pv.length :: pv

/-- The presentation of an instruction, under the parameters `p`. -/
def encode (p : Params) : Instr → Input
  | .v14Setsb n => .op (0x10 :: octetsOfNat n)
  | .v14Tx b => .op [0x11, b]
  | .v14Flush => .op [0x12]
  | .v14Rx b => .op [0x13, b]
  | .v14Rsb => .op [0x14]
  | .v14Pop => .op [0x15]
  | .v14Reset => .op [0x16]
  | .v14Rxbit b => .op [0x17, bitOctet b]
  | .hCrc16 m => .op (0x20 :: m)
  | .hSendframe f => .op (0x21 :: f)
  | .hSendflag => .op [0x22]
  | .hRxbit b => .op [0x23, bitOctet b]
  | .hPop => .op [0x24]
  | .hReset => .op [0x25]
  | .lRxbit b now => .op (0x30 :: bitOctet b :: octetsOfNat now)
  | .lTxbit now => .op (0x31 :: octetsOfNat now)
  | .lReset => .op [0x32]
  | .cWrite b => .op [0x40, b]
  | .cCmode => .op [0x41]
  | .cFlush => .op [0x42]
  | .cReset => .op [0x43]
  | .cPop => .op [0x44]
  | .dWrite b => .op [0x50, b]
  | .dReset => .op [0x51]
  | .dPop => .op [0x52]
  | .v14Char d stops now => .line (charBits d stops) now
  | .odp parity stops now => .line (charBits (dc1 parity) stops) now
  | .adp now => .line adpBits now
  | .flag now => .line flagBits now
  | .abort ones now => .line (List.replicate ones true) now
  | .frame octets now => .line (frameBits octets) now
  | .iFrame addr ns nr pb info now => .frame (addr :: seqOctet ns false :: seqOctet nr pb :: info) now
  | .rr addr nr pf now => .frame [addr, p.ctlRr, seqOctet nr pf] now
  | .rnr addr nr pf now => .frame [addr, p.ctlRnr, seqOctet nr pf] now
  | .rej addr nr pf now => .frame [addr, p.ctlRej, seqOctet nr pf] now
  | .srej addr nr pf now => .frame [addr, p.ctlSrej, seqOctet nr pf] now
  | .sOther addr code nr pf now => .frame [addr, code, seqOctet nr pf] now
  | .sabme addr pf now => .frame [addr, uOctet p.ctlSabme pf] now
  | .disc addr pf now => .frame [addr, uOctet p.ctlDisc pf] now
  | .ua addr pf now => .frame [addr, uOctet p.ctlUa pf] now
  | .xid addr pf info now => .frame (addr :: uOctet p.ctlXid pf :: info) now
  | .uOther addr code pf now => .frame [addr, uOctet code pf] now
  | .xidFi addr pf now => .xidTop addr pf [Config.xidFi] now
  | .xidGroupPublic addr pf content now => .xidTop addr pf (xidGroupOctets Config.xidGidPublic content) now
  | .xidGroupPrivate addr pf content now => .xidTop addr pf (xidGroupOctets Config.xidGidPrivate content) now
  | .xidGroupUserdata addr pf content now => .xidTop addr pf (xidGroupOctets Config.xidGidUser content) now
  | .xidParamTxsize addr pf pv now => .xidParam Config.xidGidPublic addr pf (xidParamOctets p.xidPidTxsize pv) now
  | .xidParamWindow addr pf pv now => .xidParam Config.xidGidPublic addr pf (xidParamOctets p.xidPidWindow pv) now
  | .xidParamCompreq addr pf pv now => .xidParam Config.xidGidPrivate addr pf (xidParamOctets p.xidPidCompreq pv) now
  | .tData b => .stream false b
  | .ecm => .stream true p.ecm
  | .eid => .stream true p.eid
  | .tReset => .stream true p.resetCmd
  | .tBadcmd cmd => .stream true cmd
  | .cwEtm => .codeword Config.cwEtm
  | .cwFlush => .codeword Config.cwFlush
  | .cwStepup => .codeword Config.cwStepup
  | .cwData w => .codeword w

/-! ### The opcode table's words (log 19) -/

/-- The selectors of R52. -/
def selectors : List Octet :=
  [0x10, 0x11, 0x12, 0x13, 0x14, 0x15, 0x16, 0x17, 0x20, 0x21, 0x22, 0x23, 0x24, 0x25, 0x30, 0x31, 0x32,
   0x40, 0x41, 0x42, 0x43, 0x44, 0x50, 0x51, 0x52]

/-- The selectors whose operation takes an octet or a bit, and so one operand octet at least (R52). -/
def selectorsWithOctet : List Octet := [0x11, 0x13, 0x17, 0x23, 0x30, 0x40, 0x50]

/-- An operation from the octets of a table word: an operand octet that the word does not give is 0. -/
def tableOp (sel : Octet) (args : List Octet) : Input :=
  .op (sel :: (if selectorsWithOctet.contains sel && args.isEmpty then [0] else args))

/-- A frame from a control octet and what follows it: address 0, second control octet 0 where the word gives none. -/
def tableFrame (c : Octet) (rest : List Octet) (now : Nat) : Input :=
  if c.getLsbD 0 && c.getLsbD 1 then .frame [0, c] now else .frame [0, c, rest.headD 0] now

/-- A group from its identifier: no content. -/
def tableGroup (gi : Octet) : Input := .xidTop 0 false (xidGroupOctets gi []) 0

/-- A parameter from its identifier: a value of no octets. -/
def tableParam (gi pi : Octet) : Input := .xidParam gi 0 false (xidParamOctets pi []) 0

/-- A word of one octet. Where rows of several formats share the octet the first of this order is taken (log 19): a
selector, the flag, an XID identifier, a transparent-stream command, a control octet. -/
def tableOctet (p : Params) (o : Octet) : Input :=
  if selectors.contains o then tableOp o []
  else if o = Config.flag then .line flagBits 0
  else if o = Config.xidFi then .xidTop 0 false [o] 0
  else if o = Config.xidGidPublic ∨ o = Config.xidGidPrivate ∨ o = Config.xidGidUser then tableGroup o
  else if o = p.xidPidTxsize ∨ o = p.xidPidWindow then tableParam Config.xidGidPublic o
  else if p.commands.contains o then .stream true o
  else tableFrame o [] 0

/-- The presentation of the instruction whose table word is `w`, of `nbits` bits, bit 0 first (log 19): one octet by
`tableOctet`; more octets as an operation where the first is a selector, else as a frame's control field. -/
def tableInput (p : Params) (nbits w : Nat) : Input :=
  if nbits ≤ 8 then tableOctet p (BitVec.ofNat 8 w)
  else
    let sel := BitVec.ofNat 8 w
    let rest := (List.range (nbits / 8 - 1)).map fun k => BitVec.ofNat 8 (w / 256 ^ (k + 1))
    if selectors.contains sel then tableOp sel rest else tableFrame sel rest 0

/-- What the decoder reads from a table word, under the default parameters. -/
def decodeTableWord (nbits w : Nat) : Option Instr :=
  match decode Params.defaults (tableInput Params.defaults nbits w) with
  | .ok i => some i
  | .error _ => none

end Sys2Proof
end

