-- ==== Sys2Proof/Machine/State.lean ====
section
/-!
DEFINITION. The state of the block (10_state.md) as plain data, what an operation can answer, and the state after reset
(70_reset_and_hazards.md R261). Field names are the spec's.
-/

namespace Sys2Proof.Machine

/-- The complete fault list of R232, with the info each carries. Raised by unit D alone (R223). A fault is latched in
`D.fault`, and in `L.fault` under L (R233), in a NEXT state: no step of this model ends in `Host.Outcome.fault`, so the
type costs no behaviour (safe, log 6). -/
inductive Fault where
  /-- BAD_COMMAND: the octet after the escape code is no command (raised by R216). Latched; safe. -/
  | badCommand (b : Octet)
  /-- BAD_CODEWORD: a data codeword names a free node or lies outside the arena (raised by R221). Latched; safe. -/
  | badCodeword (w : Nat)
  /-- STEPUP_OVERFLOW: STEPUP past `maxCodeWords`; info is `codeWordSize` before the step (raised by R220). Latched; safe. -/
  | stepupOverflow (size : Nat)
deriving DecidableEq, Repr

/-- Why an operation is not performed: the complete list of R233, a presentation that is no instruction, and an arm that
has no meaning yet. A refusal of R233 is answered in `State.result` of a NEXT state in which nothing else has changed
(log 6). -/
inductive Refusal where
  /-- Raised by `exec` for an arm without a meaning; no arm of this model is one. Safe. -/
  | notModelled (mnemonic : String)
  /-- Raised by `step`: the presentation decodes to no instruction; a selector outside R52 is one such (R51). Safe. -/
  | undecodable (e : DecodeError)
  /-- Raised by V14.SETSB 0 (R80). Safe. -/
  | zeroStopBits
  /-- Raised by a POP of an empty queue (R87, R108, R199, R224). Safe. -/
  | emptyQueue
  /-- Raised by D.WRITE while `D.fault` is set, L.RXBIT and L.TXBIT while `L.fault` is set (R233). Safe. -/
  | faultLatched
  /-- Raised by any operation of a unit before that unit's first RESET (R262). Safe. -/
  | unwritten
deriving DecidableEq, Repr

/-- The event list of R231. -/
inductive Event where
  | stopbitMissing
  | abort
  | badCrc
  | shortFrame
  | unknownCmd
  | badNr
  | xidMalformed
  | xidUnknownParam
deriving DecidableEq, Repr

/-- What an operation answers to the host (R52's column "result", R105, R230). -/
inductive Result where
  /-- The operation has no result, or `V14.RXBIT` and `H.RXBIT` return none. -/
  | none
  /-- `V14.RX` returns -1: no character completed. -/
  | minusOne
  | octet (b : Octet)
  | nat (n : Nat)
  | word (w : BitVec 16)
  | bit (b : Bool)
  /-- `H.RXBIT` returns `frame(f)`. -/
  | frame (octets : List Octet)
  /-- `H.RXBIT` returns `abort`. -/
  | abort
  /-- The operation raised a fault (R233). -/
  | fault (f : Fault)
  /-- The operation was not performed (R233). -/
  | refused (r : Refusal)
deriving DecidableEq, Repr

/-- The receive state machine of V (R12, R84). -/
inductive RxState where
  | idle
  | receiving
  | stopBit
deriving DecidableEq, Repr

/-- Unit V, the V.14 framer (R12). -/
structure V14 where
  rxState     : RxState
  rxCurByte   : Octet
  rxBitCount  : BitVec 4
  rxStopBits  : Nat
  maxStopBits : Nat
  missGap     : BitVec 3
  txCurByte   : Octet
  txBitCount  : BitVec 3
  txQueue     : List Octet
  txStopBits  : Nat
deriving DecidableEq, Repr

/-- Unit H, the HDLC framer (R13). -/
structure Hdlc where
  txCur    : Octet
  txCnt    : BitVec 3
  txOnes   : BitVec 3
  txBuffer : List Octet
  rxOnes   : BitVec 3
  rxCur    : Octet
  rxCnt    : BitVec 3
  rxFrame  : List Octet
deriving DecidableEq, Repr

/-- The phases of L (R14, R123). -/
inductive Phase where
  | none
  | detection
  | establish
  | connected
  | release
  | v14
deriving DecidableEq, Repr

/-- Unit L, the LAP-M controller (R14). `sentIFrames` is the index space `sent` of R30: key and stored frame, keys
strictly rising (log 15). -/
structure Lapm where
  phase       : Phase
  txSeqNum    : SeqNum
  rxSeqNum    : SeqNum
  txSeqAck    : SeqNum
  sentIFrames : List (Nat × List Octet)
  txMaxSize   : Nat
  txWindow    : Nat
  detStart    : Nat
  inactStart  : Nat
  odpCount    : BitVec 3
  lastOdp     : Option Octet
  adpSent     : Bool
  txBitPos    : BitVec 3
  fault       : Option Fault
deriving DecidableEq, Repr

/-- A node's `parent` (R15, R170). -/
inductive Parent where
  /-- `none`: the node is free. -/
  | free
  /-- `ROOT`. -/
  | root
  | node (i : Nat)
deriving DecidableEq, Repr

/-- A dictionary node (R170). `children` is a partial map from byte to index, keys strictly rising (log 15). -/
structure Node where
  character : Octet
  parent    : Parent
  children  : List (Nat × Nat)
deriving DecidableEq, Repr

/-- The shared dictionary and matcher, one copy in C and one in D (R15). `node` is the index space `dict` of R30: the
nodes that differ from their reset value, indices strictly rising (log 15). -/
structure V42Base where
  node              : List (Nat × Node)
  curCode           : Option Nat
  matchLen          : Nat
  lastAdded         : Option Nat
  nextCodeWord      : Nat
  codeWordSize      : Nat
  codeWordThreshold : Nat
  escapeCode        : Octet
  transparent       : Bool
  modeTransition    : Bool
deriving DecidableEq, Repr

/-- Unit C, the compressor (R15, R16). -/
structure Comp where
  base         : V42Base
  compressTest : Int
  testCount    : Nat
  bitBuf       : Nat
  bitCnt       : Nat
  out          : List Octet
deriving DecidableEq, Repr

/-- Unit D, the decompressor (R15, R17). -/
structure Decomp where
  base    : V42Base
  escaped : Bool
  inBuf   : Nat
  inCnt   : Nat
  fault   : Option Fault
  out     : List Octet
deriving DecidableEq, Repr

/-- Which units have had their first RESET (R262, log 2). -/
structure Written where
  v : Bool
  h : Bool
  l : Bool
  c : Bool
  d : Bool
deriving DecidableEq, Repr

/-- The machine: the five units, then the model's own fields (logs 1 to 4). -/
structure State where
  v       : V14
  h       : Hdlc
  l       : Lapm
  c       : Comp
  d       : Decomp
  /-- Which units have had their first RESET (R262, log 2). -/
  written : Written
  /-- The OPEN parameters of R4; no operation changes them (R19, log 1). -/
  cfg     : Params
  /-- What the byte source can supply now, next octet first (R37, log 3). -/
  source  : List Octet
  /-- What was given to `SinkWrite`, oldest first (R37, log 3). -/
  sink    : List Octet
  /-- The event trace, oldest first (R231, log 3). -/
  trace   : List Event
  /-- What the last operation answered (R51, log 3). -/
  result  : Result
  /-- What the outside world has presented and the block has not taken, oldest first (R51, R263, log 4). -/
  input   : List Input
deriving DecidableEq, Repr

/-- V after V14.RESET (R88). -/
def V14.atReset : V14 where
  rxState     := .idle
  rxCurByte   := 0
  rxBitCount  := 0
  rxStopBits  := 0
  maxStopBits := 0
  missGap     := 5
  txCurByte   := 0
  txBitCount  := 0
  txQueue     := []
  txStopBits  := Config.txStopBitsDefault

/-- H after H.RESET (R107). -/
def Hdlc.atReset : Hdlc where
  txCur    := 0
  txCnt    := 0
  txOnes   := 0
  txBuffer := []
  rxOnes   := 0
  rxCur    := 0
  rxCnt    := 0
  rxFrame  := []

/-- L's own state after L.RESET (R124). -/
def Lapm.atReset (p : Params) : Lapm where
  phase       := .none
  txSeqNum    := 0
  rxSeqNum    := 0
  txSeqAck    := 0
  sentIFrames := []
  txMaxSize   := p.txMaxSizeDefault
  txWindow    := p.txWindowDefault
  detStart    := 0
  inactStart  := 0
  odpCount    := 0
  lastOdp     := none
  adpSent     := false
  txBitPos    := 0
  fault       := none

/-- What a node that is not listed reads as: its value after DictReset (R173). Roots are 3..258, all others are free. -/
def Node.atReset (i : Nat) : Node :=
  if Config.cwReserved ≤ i ∧ i < Config.cwFirst then
    { character := BitVec.ofNat 8 (i - Config.cwReserved), parent := .root, children := [] }
  else { character := 0, parent := .free, children := [] }

/-- The shared state after DictReset (R173): no node is listed. -/
def V42Base.atReset : V42Base where
  node              := []
  curCode           := none
  matchLen          := 0
  lastAdded         := none
  nextCodeWord      := Config.cwFirst
  codeWordSize      := Config.cwSizeInit
  codeWordThreshold := Config.cwThreshInit
  escapeCode        := 0
  transparent       := true
  modeTransition    := false

/-- C after C.RESET (R190). -/
def Comp.atReset : Comp where
  base         := V42Base.atReset
  compressTest := 0
  testCount    := Config.testPeriodTransparent
  bitBuf       := 0
  bitCnt       := 0
  out          := []

/-- D after D.RESET (R210). -/
def Decomp.atReset : Decomp where
  base    := V42Base.atReset
  escaped := false
  inBuf   := 0
  inCnt   := 0
  fault   := none
  out     := []

/-- Every unit written. -/
def Written.all : Written := ⟨true, true, true, true, true⟩

/-- No unit written. -/
def Written.nothing : Written := ⟨false, false, false, false, false⟩

/-- The machine with parameters `p` right after L.RESET (R261), nothing presented, delivered or logged (log 3). -/
def State.resetWith (p : Params) : State where
  v       := V14.atReset
  h       := Hdlc.atReset
  l       := Lapm.atReset p
  c       := Comp.atReset
  d       := Decomp.atReset
  written := Written.all
  cfg     := p
  source  := []
  sink    := []
  trace   := []
  result  := .none
  input   := []

/-- The machine right after reset (R260, R261), under the default parameters (log 1). -/
def State.reset : State := State.resetWith Params.defaults

/-- The machine before its first reset (R262): no unit is written, so that no operation but a RESET reads what the
registers hold here (log 2). -/
def State.beforeReset (p : Params) : State := { State.resetWith p with written := Written.nothing }

end Sys2Proof.Machine
end

