-- ==== Sys2Proof/Machine/Ops.lean ====
section
/-!
DEFINITION. The named operations over the state: the two index spaces of 20_memory.md R30 in canonical form, bit packing,
the CRC generator, the updates of State, the outcomes of an operation, and what raising a fault does (60_exceptions.md
R233). There is no return from a fault but RESET (R235), which is each unit's own operation.
-/

namespace Sys2Proof.Machine

/-! ### Partial maps in canonical form (R30, log 15) -/

/-- The entry at key `k`, if there is one. -/
def Cells.lookup {α : Type} : List (Nat × α) → Nat → Option α
  | [], _ => none
  | (a, x) :: m, k => if a = k then some x else Cells.lookup m k

/-- The map with `x` at key `k`; keys stay strictly rising. -/
def Cells.insert {α : Type} : List (Nat × α) → Nat → α → List (Nat × α)
  | [], k, x => [(k, x)]
  | (a, y) :: m, k, x =>
    if k < a then (k, x) :: (a, y) :: m
    else if k = a then (k, x) :: m
    else (a, y) :: Cells.insert m k x

/-- The map without key `k`. -/
def Cells.erase {α : Type} : List (Nat × α) → Nat → List (Nat × α)
  | [], _ => []
  | (a, y) :: m, k => if a = k then m else (a, y) :: Cells.erase m k

/-- Keys strictly rising. -/
def Cells.sorted {α : Type} : List (Nat × α) → Bool
  | [] => true
  | [_] => true
  | (a, _) :: (b, y) :: m => decide (a < b) && Cells.sorted ((b, y) :: m)

/-! ### The index space `dict` (R30) -/

/-- `X.node[i]`. -/
def V42Base.nodeAt (x : V42Base) (i : Nat) : Node := (Cells.lookup x.node i).getD (Node.atReset i)

/-- `X.node[i] <- n`; a node at its reset value is not listed. -/
def V42Base.setNode (x : V42Base) (i : Nat) (n : Node) : V42Base :=
  { x with node := if n = Node.atReset i then Cells.erase x.node i else Cells.insert x.node i n }

/-- The canonical form of a dictionary: indices rising, no node at its reset value, each node's children rising. -/
def V42Base.nodesWf (x : V42Base) : Bool :=
  Cells.sorted x.node
  && x.node.all fun e => decide (e.2 ≠ Node.atReset e.1) && Cells.sorted e.2.children

/-- The canonical form of the three index spaces of the machine. -/
def Memory.wf (s : State) : Bool :=
  s.c.base.nodesWf && s.d.base.nodesWf && Cells.sorted s.l.sentIFrames

/-! ### Packing line bits (R31) -/

/-- `cur OR (b << cnt)`. -/
def orBit (cur : Octet) (cnt : Nat) (b : Bool) : Octet := cur ||| (if b then 1 <<< cnt else 0)

/-! ### The CRC-16 generator (R100) -/

/-- One bit through the generator. -/
def crcBit (crc : BitVec 16) (b : Bool) : BitVec 16 :=
  if crc.getLsbD 0 ^^ b then (crc >>> 1) ^^^ 0x8408 else crc >>> 1

/-- CRC-16/X.25 of an octet list (R100). -/
def crc16 (m : List Octet) : BitVec 16 := (octetsBits m).foldl crcBit 0xFFFF ^^^ 0xFFFF

/-- The two FCS octets, low octet first (R33 (a)). -/
def fcsOctets (m : List Octet) : List Octet := [(crc16 m).extractLsb' 0 8, (crc16 m).extractLsb' 8 8]

/-- A frame with its FCS (R54). -/
def withFcs (f : List Octet) : List Octet := f ++ fcsOctets f

/-- `CheckFcs(f)` (R106): the last two octets against the CRC of those before them. -/
def checkFcs (f : List Octet) : Bool :=
  decide ((crc16 (f.take (f.length - 2))).toNat = (f.getD (f.length - 2) 0).toNat + 256 * (f.getD (f.length - 1) 0).toNat)

/-! ### Updates of State -/

/-- The state with unit V as given. -/
def State.setV (s : State) (v : V14) : State := { s with v := v }

/-- The state with unit H as given. -/
def State.setH (s : State) (h : Hdlc) : State := { s with h := h }

/-- The state with unit L's own registers as given. -/
def State.setL (s : State) (l : Lapm) : State := { s with l := l }

/-- The state with unit C as given. -/
def State.setC (s : State) (c : Comp) : State := { s with c := c }

/-- The state with unit D as given. -/
def State.setD (s : State) (d : Decomp) : State := { s with d := d }

/-- The state with the written flags as given (R262). -/
def State.setWritten (s : State) (w : Written) : State := { s with written := w }

/-- The state with the byte source holding the given octets (R37). -/
def State.setSource (s : State) (octets : List Octet) : State := { s with source := octets }

/-- `SinkWrite(b)` (R37): always accepts. -/
def State.sinkWrite (s : State) (b : Octet) : State := { s with sink := s.sink ++ [b] }

/-- `event(E)` for each of a list of events, in order (R231). -/
def State.log (s : State) (es : List Event) : State := { s with trace := s.trace ++ es }

/-- The state whose last answer is `r` (R51). -/
def State.answer (s : State) (r : Result) : State := { s with result := r }

/-- The state whose pending presentations are as given. -/
def State.setInput (s : State) (i : List Input) : State := { s with input := i }

/-! ### Outcomes -/

/-- What every meaning answers: a next state, a fault or a refusal. -/
abbrev Out := Host.Outcome State Fault Refusal

/-- The operation is done and answers `r`. -/
def done (s : State) (r : Result) : Out := .next (s.answer r)

/-- The operation is not performed: nothing but the answer changes (R233). -/
def refuse (s : State) (r : Refusal) : Out := .next (s.answer (.refused r))

/-- An operation of a unit: refused until the unit's first RESET (R262). -/
def whenWritten (w : Bool) (s : State) (k : Out) : Out := if w then k else refuse s .unwritten

/-- An operation that a latched fault shuts out (R233). -/
def whenNoFault (f : Option Fault) (s : State) (k : Out) : Out := if f.isSome then refuse s .faultLatched else k

/-- The POP of a queue (R87, R108, R199, R224): the head is the answer, or the refusal of an empty queue. -/
def popQueue (q : List Octet) (s : State) (put : List Octet → State) : Out :=
  match q with
  | [] => refuse s .emptyQueue
  | b :: rest => done (put rest) (.octet b)

/-! ### Faults (R233) -/

/-- `raise F`: the fault is latched in D and the operation ends; what it had changed stays (R233). -/
def Decomp.raise (d : Decomp) (f : Fault) : Decomp := { d with fault := some f }

/-- The mirror of a fault of D in L, when L drives D (R150, R233). -/
def Lapm.raise (l : Lapm) (f : Option Fault) : Lapm := { l with fault := f }

/-- What an operation that may raise a fault answers: the fault if it is latched now, else `r` (R233). -/
def faultOr (f : Option Fault) (r : Result) : Result :=
  match f with
  | some e => .fault e
  | none => r

end Sys2Proof.Machine
end

