-- ==== Sys2Proof/Machine/Dictionary.lean ====
section
/-!
DEFINITION. V42Base, the shared adaptive dictionary and string matcher (43_v42bis_dictionary.md); the same for C and D.
-/

namespace Sys2Proof.Machine

/-- `Leaf(i)` (R172). -/
def V42Base.isLeaf (x : V42Base) (i : Nat) : Bool := (x.nodeAt i).children.isEmpty

/-- `Free(i)` (R172). -/
def V42Base.isFree (x : V42Base) (i : Nat) : Bool := decide ((x.nodeAt i).parent = .free)

/-- `InUse(i)` (R172). -/
def V42Base.inUse (x : V42Base) (i : Nat) : Bool := decide (Config.cwReserved ≤ i) && !x.isFree i

/-- The child of node `i` for the byte `c`, `none` where `c` is no key (R170). -/
def V42Base.childAt (x : V42Base) (i : Nat) (c : Octet) : Option Nat := Cells.lookup (x.nodeAt i).children c.toNat

/-- The bytes from the root down to node `i`, then `acc`; at most `fuel` nodes are walked (R172, log 16). -/
def V42Base.stringFrom (x : V42Base) : Nat → Nat → List Octet → List Octet
  | 0, _, acc => acc
  | fuel + 1, i, acc =>
    match (x.nodeAt i).parent with
    | .root => (x.nodeAt i).character :: acc
    | .node p => V42Base.stringFrom x fuel p ((x.nodeAt i).character :: acc)
    | .free => acc

/-- `StringOf(i)` (R172): no chain of a dictionary of `maxCodeWords` nodes is longer than that. -/
def V42Base.stringOf (p : Params) (x : V42Base) (i : Nat) : List Octet := x.stringFrom p.maxCodeWords i []

/-- `addChild(X, p, c, n)` (R174). -/
def V42Base.addChild (x : V42Base) (p : Nat) (c : Octet) (n : Nat) : V42Base :=
  let x := x.setNode n { x.nodeAt n with character := c, parent := .node p }
  x.setNode p { x.nodeAt p with children := Cells.insert (x.nodeAt p).children c.toNat n }

/-- The successor of a slot in the round-robin scan (R175). -/
def nextSlot (p : Params) (n : Nat) : Nat := if p.maxCodeWords ≤ n + 1 then Config.cwFirst else n + 1

/-- An in-use leaf is detached from its parent; a free node stays as it is (R175). -/
def V42Base.detach (x : V42Base) (n : Nat) : V42Base :=
  match (x.nodeAt n).parent with
  | .free => x
  | .root => x.setNode n { x.nodeAt n with parent := .free }
  | .node q =>
    let x := x.setNode q { x.nodeAt q with children := Cells.erase (x.nodeAt q).children (x.nodeAt n).character.toNat }
    x.setNode n { x.nodeAt n with parent := .free }

/-- The slot at which the scan of R175 stops: the first leaf after `n`, looking at no more than `fuel` slots. -/
def V42Base.scan (p : Params) (x : V42Base) : Nat → Nat → Nat
  | 0, n => n
  | fuel + 1, n =>
    if x.isLeaf (nextSlot p n) then nextSlot p n else V42Base.scan p x fuel (nextSlot p n)

/-- `recoverNode(X)` (R175). One turn round the arena looks at every slot, so a scan that finds no leaf in
`maxCodeWords` turns finds none ever (log 16). -/
def V42Base.recoverNode (p : Params) (x : V42Base) : V42Base :=
  let n := x.scan p p.maxCodeWords x.nextCodeWord
  { x.detach n with nextCodeWord := n }

/-- Step 1 of `acceptChar` (R176): the node to which the match extends, if it does. -/
def V42Base.extension (x : V42Base) (c : Octet) : Option Nat :=
  match x.curCode with
  | none => none
  | some i =>
    if x.modeTransition then none
    else
      match x.childAt i c with
      | none => none
      | some ch => if x.lastAdded = some ch then none else some ch

/-- Step 2 of `acceptChar` (R176), its dictionary part: the string of node `i` and `c` is entered if it is new and not too
long. -/
def V42Base.endMatch (p : Params) (x : V42Base) (i : Nat) (c : Octet) : V42Base :=
  if x.childAt i c = none ∧ x.matchLen + 1 ≤ p.maxStringLength then
    let n := x.nextCodeWord
    V42Base.recoverNode p { x.addChild i c n with lastAdded := some n }
  else { x with lastAdded := none }

/-- Step 3 of `acceptChar` (R176): matching restarts at `c`. -/
def V42Base.restart (x : V42Base) (c : Octet) : V42Base :=
  { x with modeTransition := false, curCode := some (Config.cwReserved + c.toNat), matchLen := 1 }

/-- `acceptChar(X, c)` (R176): the state after it, and the code and length for which `MatchEnd` is called (R177), if it is.
`MatchEnd` writes nothing that step 3 writes or reads, so it may act on the state after step 3 (log 17). -/
def V42Base.acceptChar (p : Params) (x : V42Base) (c : Octet) : V42Base × Option (Nat × Nat) :=
  match x.extension c with
  | some ch => ({ x with curCode := some ch, matchLen := x.matchLen + 1 }, none)
  | none =>
    match x.curCode with
    | none => (x.restart c, none)
    | some i =>
      ((x.endMatch p i c).restart c, if x.modeTransition then none else some (i, x.matchLen))

/-- `if b = X.escapeCode then X.escapeCode <- (X.escapeCode + 51) mod 256` (R195, R222). -/
def V42Base.rollEscape (x : V42Base) (b : Octet) : V42Base :=
  if b = x.escapeCode then { x with escapeCode := x.escapeCode + Config.escStep } else x

end Sys2Proof.Machine
end

