-- ==== Sys2Proof/Machine/Flags.lean ====
section
/-!
DEFINITION. The tests that decide which way a transition goes (10_state.md R11, R18): the block has no condition codes, so
these are comparisons of registers, each said once.
-/

namespace Sys2Proof.Machine

/-- `incMod128(a)` (R120). -/
def incMod128 (a : SeqNum) : SeqNum := a + 1

/-- `decMod128(a)` (R121); no rule needs it. -/
def decMod128 (a : SeqNum) : SeqNum := a + 127

/-- `lteMod128(a, b)`: `b` is not more than half the space ahead of `a` (R122). -/
def lteMod128 (a b : SeqNum) : Bool := decide ((b - a).toNat ≤ 64)

/-- Whether N(R) acknowledges something sent or nothing (R125). -/
def Lapm.nrValid (l : Lapm) (nr : SeqNum) : Bool :=
  lteMod128 l.txSeqAck nr && lteMod128 nr l.txSeqNum && (decide (nr = l.txSeqAck) || decide (l.txSeqAck ≠ l.txSeqNum))

/-- `WindowOpen()` (R143). -/
def Lapm.windowOpen (l : Lapm) : Bool := decide ((l.txSeqNum - l.txSeqAck).toNat < l.txWindow)

/-- A timer's expiry: `now ≥ start + duration` (R238). -/
def timerExpired (start duration now : Nat) : Bool := decide (start + duration ≤ now)

/-- A DC1 character, of either parity (R66, R127). -/
def isDc1 (c : Octet) : Bool := c == Config.dc1Even || c == Config.dc1Odd

/-- Whether a DC1 counts as the next repetition of ODP: another parity than the last, after 9 or 17 stop bits (R127). -/
def Lapm.continuesOdp (l : Lapm) (c : Octet) (n : Nat) : Bool :=
  isDc1 c && decide (1 ≤ l.odpCount.toNat) && decide (l.lastOdp ≠ some c) && Config.odpStopBits.contains n

/-- Whether an I-frame could be sent now (R133, R144): Connected, the window open, the source not empty. -/
def State.canSendIFrame (s : State) : Bool :=
  decide (s.l.phase = .connected) && s.l.windowOpen && !s.source.isEmpty

/-- Whether the compressor's periodic test changes the mode (R192, R195). -/
def Comp.modeTestFires (c : Comp) : Bool :=
  if c.base.transparent then decide (Config.testGain < c.compressTest) else decide (c.compressTest < Config.testLoss)

/-- The period of the mode test in a mode (R192). -/
def testPeriod (transparent : Bool) : Nat :=
  if transparent then Config.testPeriodTransparent else Config.testPeriodCompressed

end Sys2Proof.Machine
end

