-- ==== Sys2Proof/Machine/Compressor.lean ====
section
/-!
DEFINITION. Unit C, the V.42bis compressor (44_compressor.md). No operation of C faults.
-/

namespace Sys2Proof.Machine

/-- Octets appended to `C.out`. -/
def Comp.emit (c : Comp) (octets : List Octet) : Comp := { c with out := c.out ++ octets }

/-- `while C.bitCnt >= 8` of R191, at most `fuel` turns. -/
def Comp.drain : Nat → Comp → Comp
  | 0, c => c
  | fuel + 1, c =>
    if 8 ≤ c.bitCnt then
      Comp.drain fuel
        { c with out := c.out ++ [BitVec.ofNat 8 c.bitBuf], bitBuf := c.bitBuf >>> 8, bitCnt := c.bitCnt - 8 }
    else c

/-- `PutCodeword(w)` (R191). -/
def Comp.putCodeword (c : Comp) (w : Nat) : Comp :=
  let c := { c with bitBuf := c.bitBuf ||| (w <<< c.bitCnt), bitCnt := c.bitCnt + c.base.codeWordSize }
  Comp.drain c.bitCnt c

/-- `Pad()` (R200). -/
def Comp.pad (c : Comp) : Comp :=
  if 0 < c.bitCnt then { c with out := c.out ++ [BitVec.ofNat 8 c.bitBuf], bitBuf := 0, bitCnt := 0 } else c

/-- One turn of the loop of R193: STEPUP at the old width, then the width and the threshold grow. -/
def Comp.stepup (p : Params) (c : Comp) : Comp :=
  let c := c.putCodeword Config.cwStepup
  { c with base :=
      { c.base with
        codeWordSize := c.base.codeWordSize + 1
        codeWordThreshold := min (2 * c.base.codeWordThreshold) p.maxCodeWords } }

/-- The loop of R193, at most `fuel` turns. -/
def Comp.stepups (p : Params) (code : Nat) : Nat → Comp → Comp
  | 0, c => c
  | fuel + 1, c =>
    if c.base.codeWordThreshold ≤ max c.base.nextCodeWord code ∧ c.base.codeWordThreshold < p.maxCodeWords then
      Comp.stepups p code fuel (c.stepup p)
    else c

/-- `checkDictSize(code)` (R193). A threshold above 0 grows at each turn, so `maxCodeWords` turns are enough (log 16). -/
def Comp.checkDictSize (p : Params) (c : Comp) (code : Nat) : Comp := Comp.stepups p code p.maxCodeWords c

/-- `MatchEnd(C, code, len)` (R194). -/
def Comp.matchEnd (p : Params) (c : Comp) (code len : Nat) : Comp :=
  let c := { c with compressTest := c.compressTest + 8 * (len : Int) - (c.base.codeWordSize : Int) }
  if c.base.transparent then c else (c.checkDictSize p code).putCodeword code

/-- `call acceptChar(C, b)` (R176) with C's `MatchEnd`. -/
def Comp.acceptChar (p : Params) (c : Comp) (b : Octet) : Comp :=
  match c.base.acceptChar p b with
  | (x, none) => { c with base := x }
  | (x, some (code, len)) => Comp.matchEnd p { c with base := x } code len

/-- `FlushInternal(enterTransparent)` (R198). -/
def Comp.flushInternal (p : Params) (c : Comp) (enterTransparent : Bool) : Comp :=
  if c.base.transparent then c
  else
    let c :=
      match c.base.curCode with
      | none => c
      | some i => if c.base.modeTransition then c else (c.checkDictSize p i).putCodeword i
    let c := (c.putCodeword (if enterTransparent then Config.cwEtm else Config.cwFlush)).pad
    { c with base := { c.base with modeTransition := true } }

/-- `changeMode()` (R196). -/
def Comp.changeMode (p : Params) (c : Comp) : Comp :=
  let c :=
    if c.base.transparent then
      let c := c.emit [c.base.escapeCode, p.ecm]
      { c with base := { c.base with transparent := false }, testCount := Config.testPeriodCompressed }
    else
      let c := c.flushInternal p true
      { c with base := { c.base with transparent := true }, testCount := Config.testPeriodTransparent }
  { c with base := { c.base with modeTransition := true }, compressTest := 0 }

/-- Step 1 of C.WRITE (R195): the raw octet, `EID` behind it on a collision, and the escape code's roll. -/
def Comp.writeRaw (p : Params) (c : Comp) (b : Octet) : Comp :=
  let out :=
    if c.base.transparent then (if b = c.base.escapeCode then [b, p.eid] else [b]) else []
  { c.emit out with base := c.base.rollEscape b }

/-- Step 3 of C.WRITE (R195): the periodic mode test. -/
def Comp.modeTest (p : Params) (c : Comp) : Comp :=
  let c := { c with testCount := c.testCount - 1 }
  if c.testCount = 0 then
    if c.modeTestFires then c.changeMode p
    else { c with testCount := testPeriod c.base.transparent, compressTest := 0 }
  else c

/-- The body of C.WRITE (R195). -/
def Comp.write (p : Params) (c : Comp) (b : Octet) : Comp := ((c.writeRaw p b).acceptChar p b).modeTest p

/-- The body of C.FLUSH (R197). -/
def Comp.flush (p : Params) (c : Comp) : Comp := c.flushInternal p false

/-! ### The host operations -/

/-- `C.WRITE b` (R195). -/
def execCWrite (b : Octet) (s : State) : Out := whenWritten s.written.c s (done (s.setC (s.c.write s.cfg b)) .none)

/-- `C.CMODE` (R196). -/
def execCCmode (s : State) : Out := whenWritten s.written.c s (done (s.setC (s.c.changeMode s.cfg)) .none)

/-- `C.FLUSH` (R197). -/
def execCFlush (s : State) : Out := whenWritten s.written.c s (done (s.setC (s.c.flush s.cfg)) .none)

/-- `C.RESET` (R190). -/
def execCReset (s : State) : Out :=
  done ((s.setC Comp.atReset).setWritten { s.written with c := true }) .none

/-- `C.POP` (R199). -/
def execCPop (s : State) : Out :=
  whenWritten s.written.c s (popQueue s.c.out s fun q => s.setC { s.c with out := q })

end Sys2Proof.Machine
end

