-- ==== Sys2Proof/Machine/Decompressor.lean ====
section
/-!
DEFINITION. Unit D, the V.42bis decompressor (45_decompressor.md), the only unit that faults; and the wire-format rows of
the octet stream it reads, TSTREAM and CODEWORD (30_encoding.md R61, R62; logs 13 and 14).
-/

namespace Sys2Proof.Machine

/-- `OutByte(x)` (R222); `MatchEnd` does nothing in D (R177). -/
def Decomp.outByte (p : Params) (d : Decomp) (x : Octet) : Decomp :=
  { d with out := d.out ++ [x], base := ((d.base.rollEscape x).acceptChar p x).1 }

/-- `EnterCompressed()` (R213). -/
def Decomp.enterCompressed (d : Decomp) : Decomp :=
  { d with base := { d.base with transparent := false, modeTransition := true }, inBuf := 0, inCnt := 0 }

/-- `CodecReset()` (R215): what was output, and the fault latch, stay. -/
def Decomp.codecReset (d : Decomp) : Decomp := { d with base := V42Base.atReset, escaped := false, inBuf := 0, inCnt := 0 }

/-- The octet after the escape code (R212): ECM, EID, RESET_CMD, or BAD_COMMAND (R216). -/
def Decomp.command (p : Params) (d : Decomp) (b : Octet) : Decomp :=
  if b = p.ecm then d.enterCompressed
  else if b = p.eid then d.outByte p d.base.escapeCode
  else if b = p.resetCmd then d.codecReset
  else d.raise (.badCommand b)

/-- `TransparentOctet(b)` (R212). -/
def Decomp.transparentOctet (p : Params) (d : Decomp) (b : Octet) : Decomp :=
  if d.escaped then Decomp.command p { d with escaped := false } b
  else if b = d.base.escapeCode then { d with escaped := true }
  else d.outByte p b

/-- `DoEtm()` (R218). -/
def Decomp.doEtm (d : Decomp) : Decomp :=
  { d with base := { d.base with transparent := true, modeTransition := true }, inBuf := 0, inCnt := 0 }

/-- `DoFlush()` (R219): the bits left of the current octet are dropped. -/
def Decomp.doFlush (d : Decomp) : Decomp :=
  { d with base := { d.base with modeTransition := true }, inBuf := d.inBuf >>> (d.inCnt % 8), inCnt := d.inCnt - d.inCnt % 8 }

/-- `DoStepup()` (R220). -/
def Decomp.doStepup (p : Params) (d : Decomp) : Decomp :=
  if p.maxCodeWords < 2 * d.base.codeWordThreshold then d.raise (.stepupOverflow d.base.codeWordSize)
  else
    { d with base :=
        { d.base with
          codeWordSize := d.base.codeWordSize + 1
          codeWordThreshold := 2 * d.base.codeWordThreshold } }

/-- `DataCodeword(w)` (R221): the whole string is read before the first `OutByte`. -/
def Decomp.dataCodeword (p : Params) (d : Decomp) (w : Nat) : Decomp :=
  if p.maxCodeWords ≤ w ∨ d.base.isFree w then d.raise (.badCodeword w)
  else (d.base.stringOf p w).foldl (Decomp.outByte p) d

/-- What an extracted codeword does (R217). -/
def Decomp.codeword (p : Params) (d : Decomp) (w : Nat) : Decomp :=
  if w = Config.cwEtm then d.doEtm
  else if w = Config.cwFlush then d.doFlush
  else if w = Config.cwStepup then d.doStepup p
  else d.dataCodeword p w

/-- The loop of R217, at most `fuel` turns; a fault ends it. -/
def Decomp.extract (p : Params) : Nat → Decomp → Decomp
  | 0, d => d
  | fuel + 1, d =>
    if d.base.transparent = false ∧ d.base.codeWordSize ≤ d.inCnt ∧ d.fault = none then
      Decomp.extract p fuel
        (Decomp.codeword p
          { d with inBuf := d.inBuf >>> d.base.codeWordSize, inCnt := d.inCnt - d.base.codeWordSize }
          (d.inBuf % 2 ^ d.base.codeWordSize))
    else d

/-- `CompressedOctet(b)` (R217). -/
def Decomp.compressedOctet (p : Params) (d : Decomp) (b : Octet) : Decomp :=
  Decomp.extract p (d.inCnt + 8) { d with inBuf := d.inBuf ||| (b.toNat <<< d.inCnt), inCnt := d.inCnt + 8 }

/-- The body of D.WRITE (R211); a latched fault shuts it out (R233). -/
def Decomp.write (p : Params) (d : Decomp) (b : Octet) : Decomp :=
  if d.fault.isSome then d
  else if d.base.transparent then d.transparentOctet p b
  else d.compressedOctet p b

/-- D.WRITE for each of a list of octets (R211); after a fault the rest is refused (R233). -/
def Decomp.writes (p : Params) (d : Decomp) (octets : List Octet) : Decomp := octets.foldl (Decomp.write p) d

/-! ### The host operations -/

/-- An operation that gives D octets of the V.42bis stream: the refusals of R262 and R233, then what it answers. -/
def dInput (s : State) (d : Decomp) : Out :=
  whenWritten s.written.d s (whenNoFault s.d.fault s (done (s.setD d) (faultOr d.fault .none)))

/-- `D.WRITE b` (R211). -/
def execDWrite (b : Octet) (s : State) : Out := dInput s (s.d.write s.cfg b)

/-- `D.RESET` (R210). -/
def execDReset (s : State) : Out :=
  done ((s.setD Decomp.atReset).setWritten { s.written with d := true }) .none

/-- `D.POP` (R224): accepted while a fault is latched. -/
def execDPop (s : State) : Out :=
  whenWritten s.written.d s (popQueue s.d.out s fun q => s.setD { s.d with out := q })

/-! ### The transparent stream's rows: the item's octets are given to D.WRITE (log 13) -/

/-- An escape pair: the decoder's current escape code, then the command octet (R61). -/
def Decomp.pair (p : Params) (d : Decomp) (cmd : Octet) : Decomp := d.writes p [d.base.escapeCode, cmd]

/-- `T.DATA` (R212): one octet of the stream. -/
def execTData (b : Octet) (s : State) : Out := dInput s (s.d.write s.cfg b)

/-- `ECM` (R213). -/
def execEcm (s : State) : Out := dInput s (s.d.pair s.cfg s.cfg.ecm)

/-- `EID` (R214). -/
def execEid (s : State) : Out := dInput s (s.d.pair s.cfg s.cfg.eid)

/-- `RESET` (R215). -/
def execTReset (s : State) : Out := dInput s (s.d.pair s.cfg s.cfg.resetCmd)

/-- `T.BADCMD` (R216). -/
def execTBadcmd (cmd : Octet) (s : State) : Out := dInput s (s.d.pair s.cfg cmd)

/-! ### The codeword stream's rows: the codeword is the one that R217 has extracted (log 14) -/

/-- An extracted codeword, in compressed mode; in transparent mode none is extracted (R217). -/
def Decomp.afterCodeword (p : Params) (d : Decomp) (w : Nat) : Decomp :=
  if d.base.transparent then d else d.codeword p w

/-- `CW.ETM` (R218). -/
def execCwEtm (s : State) : Out := dInput s (s.d.afterCodeword s.cfg Config.cwEtm)

/-- `CW.FLUSH` (R219). -/
def execCwFlush (s : State) : Out := dInput s (s.d.afterCodeword s.cfg Config.cwFlush)

/-- `CW.STEPUP` (R220). -/
def execCwStepup (s : State) : Out := dInput s (s.d.afterCodeword s.cfg Config.cwStepup)

/-- `CW.DATA` (R221). -/
def execCwData (w : Nat) (s : State) : Out := dInput s (s.d.afterCodeword s.cfg w)

end Sys2Proof.Machine
end

