-- ==== Sys2Proof/Machine/HdlcFramer.lean ====
section
/-!
DEFINITION. Unit H, the HDLC frame encoder and decoder (41_hdlc_crc.md). The CRC generator is in Ops.lean.
-/

namespace Sys2Proof.Machine

/-- `RawBit(b)` (R101). -/
def Hdlc.rawBit (h : Hdlc) (b : Bool) : Hdlc :=
  let cur := orBit h.txCur h.txCnt.toNat b
  if h.txCnt = 7 then { h with txBuffer := h.txBuffer ++ [cur], txCur := 0, txCnt := 0 }
  else { h with txCur := cur, txCnt := h.txCnt + 1 }

/-- The body of H.SENDFLAG (R102). -/
def Hdlc.sendFlag (h : Hdlc) : Hdlc := { (octetBits Config.flag).foldl Hdlc.rawBit h with txOnes := 0 }

/-- `StuffBit(b)` (R103). -/
def Hdlc.stuffBit (h : Hdlc) (b : Bool) : Hdlc :=
  let h := h.rawBit b
  if b then
    if h.txOnes + 1 = 5 then { h.rawBit false with txOnes := 0 } else { h with txOnes := h.txOnes + 1 }
  else { h with txOnes := 0 }

/-- The body of H.SENDFRAME (R104). -/
def Hdlc.sendFrame (h : Hdlc) (f : List Octet) : Hdlc :=
  ((octetsBits (withFcs f)).foldl Hdlc.stuffBit h.sendFlag).sendFlag

/-- `while H.txCnt > 0: RawBit(1)`, at most `fuel` turns; 8 are always enough (R144, phase Release). -/
def Hdlc.fillOnes : Nat → Hdlc → Hdlc
  | 0, h => h
  | fuel + 1, h => if h.txCnt = 0 then h else Hdlc.fillOnes fuel (h.rawBit true)

/-- What `HdlcRxBit` returns (R105). -/
inductive HdlcResult where
  | none
  | frame (octets : List Octet)
  | abort
deriving DecidableEq, Repr

/-- The procedure `Shift(x)` (R105). -/
def Hdlc.shift (h : Hdlc) (x : Bool) : Hdlc :=
  let cur := orBit h.rxCur h.rxCnt.toNat x
  if h.rxCnt = 7 then { h with rxFrame := h.rxFrame ++ [cur], rxCur := 0, rxCnt := 0 }
  else { h with rxCur := cur, rxCnt := h.rxCnt + 1 }

/-- The frame in progress is dropped (R105). -/
def Hdlc.dropFrame (h : Hdlc) : Hdlc := { h with rxFrame := [], rxCur := 0, rxCnt := 0 }

/-- The procedure `HdlcRxBit(b)` (R105). -/
def Hdlc.rxBit (h : Hdlc) (b : Bool) : Hdlc × HdlcResult :=
  if b then
    if h.rxOnes = 7 then (h, .none)
    else
      let h := { h with rxOnes := h.rxOnes + 1 }
      if h.rxOnes = 7 then (h.dropFrame, .abort) else (h.shift true, .none)
  else
    let o := h.rxOnes
    let h := { h with rxOnes := 0 }
    if o = 5 then (h, .none)
    else if o = 6 then (h.dropFrame, .frame h.rxFrame)
    else (h.shift false, .none)

/-! ### The host operations -/

/-- `H.CRC16 M` (R100): a pure function. -/
def execHCrc16 (m : List Octet) (s : State) : Out := whenWritten s.written.h s (done s (.word (crc16 m)))

/-- `H.SENDFRAME F` (R104). -/
def execHSendframe (f : List Octet) (s : State) : Out :=
  whenWritten s.written.h s (done (s.setH (s.h.sendFrame f)) .none)

/-- `H.SENDFLAG` (R102). -/
def execHSendflag (s : State) : Out := whenWritten s.written.h s (done (s.setH s.h.sendFlag) .none)

/-- `H.RXBIT b` (R105): an abort is logged by the host operation. -/
def execHRxbit (b : Bool) (s : State) : Out :=
  whenWritten s.written.h s
    (match s.h.rxBit b with
     | (h, .none) => done (s.setH h) .none
     | (h, .frame f) => done (s.setH h) (.frame f)
     | (h, .abort) => done ((s.setH h).log [.abort]) .abort)

/-- `H.POP` (R108). -/
def execHPop (s : State) : Out :=
  whenWritten s.written.h s (popQueue s.h.txBuffer s fun q => s.setH { s.h with txBuffer := q })

/-- `H.RESET` (R107). -/
def execHReset (s : State) : Out :=
  done ((s.setH Hdlc.atReset).setWritten { s.written with h := true }) .none

end Sys2Proof.Machine
end

