-- ==== Sys2Proof/Machine/V14Framer.lean ====
section
/-!
DEFINITION. Unit V, the V.14 framer (40_v14_framer.md).
-/

namespace Sys2Proof.Machine

/-- `TransmitBit(b)` (R81). -/
def V14.transmitBit (v : V14) (b : Bool) : V14 :=
  let cur := orBit v.txCurByte v.txBitCount.toNat b
  if v.txBitCount = 7 then { v with txQueue := v.txQueue ++ [cur], txCurByte := 0, txBitCount := 0 }
  else { v with txCurByte := cur, txBitCount := v.txBitCount + 1 }

/-- `TransmitBit` for each of a list of bits, in order. -/
def V14.transmitBits (v : V14) (bits : List Bool) : V14 := bits.foldl V14.transmitBit v

/-- `while V.txBitCount > 0: TransmitBit(1)`, at most `fuel` turns; 8 are always enough (R83). -/
def V14.fillOnes : Nat → V14 → V14
  | 0, v => v
  | fuel + 1, v => if v.txBitCount = 0 then v else V14.fillOnes fuel (v.transmitBit true)

/-- The body of V14.TX (R82). -/
def V14.tx (v : V14) (b : Octet) : V14 := v.transmitBits (charBits b v.txStopBits)

/-- The body of V14.FLUSH (R83). -/
def V14.flush (v : V14) : V14 :=
  if v.txBitCount ≠ 0 then V14.fillOnes 8 v else v.transmitBits (List.replicate 8 true)

/-- A start bit: a new character begins (R84). -/
def V14.startChar (v : V14) : V14 :=
  { v with rxState := .receiving, rxCurByte := 0, rxBitCount := 0, rxStopBits := 0 }

/-- `min(V.missGap + 1, 5)` (R84). -/
def V14.nextMissGap (v : V14) : BitVec 3 := if v.missGap < 5 then v.missGap + 1 else 5

/-- What one received line bit gives: V after it, the character that it completes, and its events (R84). -/
structure V14Step where
  v      : V14
  char   : Option Octet
  events : List Event

/-- A bit in state Receiving (R84). -/
def V14.rxData (v : V14) (b : Bool) : V14Step :=
  let cur := orBit v.rxCurByte v.rxBitCount.toNat b
  let cnt := v.rxBitCount + 1
  if cnt = 8 then
    ⟨{ v with rxCurByte := cur, rxBitCount := cnt, rxState := .stopBit, missGap := v.nextMissGap }, some cur, []⟩
  else ⟨{ v with rxCurByte := cur, rxBitCount := cnt }, none, []⟩

/-- The body of V14.RXBIT (R84). -/
def V14.rxBit (v : V14) (b : Bool) : V14Step :=
  match v.rxState with
  | .idle =>
    if b then
      ⟨{ v with rxStopBits := v.rxStopBits + 1, maxStopBits := max v.maxStopBits (v.rxStopBits + 1) }, none, []⟩
    else ⟨v.startChar, none, []⟩
  | .receiving => v.rxData b
  | .stopBit =>
    if b then ⟨{ v with rxStopBits := 1, maxStopBits := max v.maxStopBits 1, rxState := .idle }, none, []⟩
    else
      ⟨{ v with missGap := 0 }.startChar, none,
        if v.missGap ≤ Config.stopbitLogGap then [.stopbitMissing] else []⟩

/-- `V14.RXBIT` for each of a list of bits: the last character that completes, the events in order (R85). -/
def V14.rxBits : V14 → List Bool → V14Step
  | v, [] => ⟨v, none, []⟩
  | v, b :: bs =>
    let r := v.rxBit b
    let t := V14.rxBits r.v bs
    ⟨t.v, t.char.or r.char, r.events ++ t.events⟩

/-- The body of V14.RX (R85). -/
def V14.rx (v : V14) (b : Octet) : V14Step := v.rxBits (octetBits b)

/-- `V14.RSB` takes the longest run and clears it (R86). -/
def V14.takeRun (v : V14) : V14 := { v with maxStopBits := 0 }

/-! ### The host operations -/

/-- `V14.SETSB n` (R80). -/
def execV14Setsb (n : Nat) (s : State) : Out :=
  whenWritten s.written.v s
    (if n = 0 then refuse s .zeroStopBits else done (s.setV { s.v with txStopBits := n }) .none)

/-- `V14.TX b` (R82). -/
def execV14Tx (b : Octet) (s : State) : Out := whenWritten s.written.v s (done (s.setV (s.v.tx b)) .none)

/-- `V14.FLUSH` (R83). -/
def execV14Flush (s : State) : Out := whenWritten s.written.v s (done (s.setV s.v.flush) .none)

/-- `V14.RX B` (R85): the octet, or -1. -/
def execV14Rx (b : Octet) (s : State) : Out :=
  whenWritten s.written.v s
    (done ((s.setV (s.v.rx b).v).log (s.v.rx b).events)
      (match (s.v.rx b).char with
       | some c => .octet c
       | none => .minusOne))

/-- `V14.RSB` (R86). -/
def execV14Rsb (s : State) : Out :=
  whenWritten s.written.v s (done (s.setV s.v.takeRun) (.nat s.v.maxStopBits))

/-- `V14.POP` (R87). -/
def execV14Pop (s : State) : Out :=
  whenWritten s.written.v s (popQueue s.v.txQueue s fun q => s.setV { s.v with txQueue := q })

/-- `V14.RESET` (R88). -/
def execV14Reset (s : State) : Out :=
  done ((s.setV V14.atReset).setWritten { s.written with v := true }) .none

/-- `V14.RXBIT b` (R84): the octet, or none. -/
def execV14Rxbit (b : Bool) (s : State) : Out :=
  whenWritten s.written.v s
    (done ((s.setV (s.v.rxBit b).v).log (s.v.rxBit b).events)
      (match (s.v.rxBit b).char with
       | some c => .octet c
       | none => .none))

end Sys2Proof.Machine
end

