-- ==== Sys2Proof/Machine/Xid.lean ====
section
/-!
DEFINITION. The XID information field (30_encoding.md R60): the parse of 42_lapm.md R145, the effects of R146 and the
response's information field of R147.
-/

namespace Sys2Proof.Machine

/-- A parameter: identifier and value octets; its length octet is the value's length (R60). -/
structure XidParam where
  pi : Octet
  pv : List Octet
deriving DecidableEq, Repr

/-- A group: its parameters (`0x80`, `0xF0`), or content that is skipped by its length (any other identifier) (R145). -/
inductive XidGroup where
  | params (gi : Octet) (ps : List XidParam)
  | skipped (gi : Octet) (content : List Octet)
deriving DecidableEq, Repr

/-- A group whose content is parsed as parameters (R145). -/
def hasXidParams (gi : Octet) : Bool := gi == Config.xidGidPublic || gi == Config.xidGidPrivate

/-- The parameters of a group's content; `none` where one runs past the group (R145). -/
def parseXidParams : Nat → List Octet → Option (List XidParam)
  | _, [] => some []
  | fuel + 1, pi :: pl :: rest =>
    if pl.toNat ≤ rest.length then
      (parseXidParams fuel (rest.drop pl.toNat)).map (⟨pi, rest.take pl.toNat⟩ :: ·)
    else none
  | _, _ => none

/-- The groups behind the format identifier; `none` where a group runs past the field or does not parse (R145). -/
def parseXidGroups : Nat → List Octet → Option (List XidGroup)
  | _, [] => some []
  | fuel + 1, gi :: hi :: lo :: rest =>
    let gl := natOfOctetsBE [hi, lo]
    if gl ≤ rest.length then
      let group :=
        if hasXidParams gi then (parseXidParams gl (rest.take gl)).map (XidGroup.params gi)
        else some (.skipped gi (rest.take gl))
      group.bind fun g => (parseXidGroups fuel (rest.drop gl)).map (g :: ·)
    else none
  | _, _ => none

/-- The parse of R145: `none` is XID_MALFORMED. -/
def parseXid (info : List Octet) : Option (List XidGroup) :=
  match info with
  | [] => none
  | fi :: rest => if fi = Config.xidFi then parseXidGroups rest.length rest else none

/-- The effect of one parameter (R146): L after it, and its events. -/
def xidParamEffect (p : Params) (gi : Octet) (l : Lapm) (x : XidParam) : Lapm × List Event :=
  if gi = Config.xidGidPublic then
    if x.pi = p.xidPidTxsize then ({ l with txMaxSize := natOfOctetsBE x.pv / p.xidLenDiv }, [])
    else if x.pi = p.xidPidWindow then ({ l with txWindow := natOfOctetsBE x.pv }, [])
    else if Config.xidPublicKnown.contains x.pi then (l, [])
    else (l, [.xidUnknownParam])
  else
    if x.pi = p.xidPidCompreq then (l, [])
    else if Config.xidPrivateKnown.contains x.pi then (l, [])
    else (l, [.xidUnknownParam])

/-- The effects of a group's parameters, in order (R146). -/
def xidParamsEffect (p : Params) (gi : Octet) : Lapm → List XidParam → Lapm × List Event
  | l, [] => (l, [])
  | l, x :: xs =>
    let r := xidParamEffect p gi l x
    let t := xidParamsEffect p gi r.1 xs
    (t.1, r.2 ++ t.2)

/-- The effect of a group: an unknown group is logged, the user-data group skipped silently (R145, R146). -/
def xidGroupEffect (p : Params) (l : Lapm) : XidGroup → Lapm × List Event
  | .params gi ps => xidParamsEffect p gi l ps
  | .skipped gi _ => (l, if gi = Config.xidGidUser then [] else [.xidUnknownParam])

/-- The effects of the groups, in order of appearance (R146, log 20). -/
def xidEffect (p : Params) : Lapm → List XidGroup → Lapm × List Event
  | l, [] => (l, [])
  | l, g :: gs =>
    let r := xidGroupEffect p l g
    let t := xidEffect p r.1 gs
    (t.1, r.2 ++ t.2)

/-- A parameter in the response: the data compression request's value octets are 0 (R147). -/
def xidParamResponse (p : Params) (gi : Octet) (x : XidParam) : List Octet :=
  xidParamOctets x.pi
    (if gi = Config.xidGidPrivate ∧ x.pi = p.xidPidCompreq then List.replicate x.pv.length 0 else x.pv)

/-- A group in the response (R147). -/
def xidGroupResponse (p : Params) : XidGroup → List Octet
  | .params gi ps => xidGroupOctets gi (ps.flatMap (xidParamResponse p gi))
  | .skipped gi content => xidGroupOctets gi content

/-- The response's information field `info'` (R147): the received field, the compression request's value octets zeroed. -/
def xidResponse (p : Params) (gs : List XidGroup) : List Octet := Config.xidFi :: gs.flatMap (xidGroupResponse p)

end Sys2Proof.Machine
end

