-- ==== Sys2Proof/Machine/LapmController.lean ====
section
/-!
DEFINITION. Unit L, the LAP-M controller (42_lapm.md): it drives V and H, and C and D when `compEnabled`.
-/

namespace Sys2Proof.Machine

/-! ### Sending frames -/

/-- `LSend(F, now)` (R139). -/
def State.lSend (s : State) (f : List Octet) (now : Nat) : State :=
  (s.setH (s.h.sendFrame f)).setL { s.l with inactStart := now }

/-- `Gather(k)` (R150): the information octets of a frame made from `k` source octets, and the state after it. -/
def State.gather (s : State) (k : Nat) : List Octet × State :=
  if s.cfg.compEnabled then
    let c := ((s.source.take k).foldl (Comp.write s.cfg) s.c).flush s.cfg
    (c.out, (s.setSource (s.source.drop k)).setC { c with out := [] })
  else (s.source.take k, s.setSource (s.source.drop k))

/-- `sendIFrame(now)` (R143). -/
def State.sendIFrame (s : State) (now : Nat) : State :=
  let g := s.gather (min s.source.length s.l.txMaxSize)
  let fr := s.cfg.addrCmd :: seqOctet s.l.txSeqNum false :: seqOctet s.l.rxSeqNum false :: g.1
  let t := g.2.lSend fr now
  t.setL
    { t.l with
      sentIFrames := Cells.insert t.l.sentIFrames t.l.txSeqNum.toNat fr
      txSeqNum := incMod128 t.l.txSeqNum }

/-! ### Acknowledgement and retransmission -/

/-- The loop of R125: frames are erased up to `nr`. One turn round the 128 numbers, `fuel` = 128, always reaches it. -/
def Lapm.ackTo (nr : SeqNum) : Nat → Lapm → Lapm
  | 0, l => l
  | fuel + 1, l =>
    if l.txSeqAck = nr then l
    else
      Lapm.ackTo nr fuel
        { l with sentIFrames := Cells.erase l.sentIFrames l.txSeqAck.toNat, txSeqAck := incMod128 l.txSeqAck }

/-- `ackIFrame(nr)` (R125). -/
def State.ackIFrame (s : State) (nr : SeqNum) : State :=
  if s.l.nrValid nr then s.setL (Lapm.ackTo nr 128 s.l) else s.log [.badNr]

/-- The stored frame `fr` with the current N(R) in its second control octet, P kept (R136). -/
def renumber (rxSeqNum : SeqNum) (fr : List Octet) : List Octet :=
  fr.set 2 (seqOctet rxSeqNum ((fr.getD 2 0).getLsbD 0))

/-- One stored frame is sent again, if there is one under `q` (R136). -/
def State.resend (s : State) (q : SeqNum) (now : Nat) : State :=
  match Cells.lookup s.l.sentIFrames q.toNat with
  | none => s
  | some fr =>
    let fr := renumber s.l.rxSeqNum fr
    (s.setL { s.l with sentIFrames := Cells.insert s.l.sentIFrames q.toNat fr }).lSend fr now

/-- The loop of R136, from `q` up to `txSeqNum`; `fuel` = 128 always reaches it. -/
def State.resendFrom (now : Nat) : Nat → SeqNum → State → State
  | 0, _, s => s
  | fuel + 1, q, s =>
    if q = s.l.txSeqNum then s else State.resendFrom now fuel (incMod128 q) (s.resend q now)

/-- `handleReject(nr, now)` (R136): an N(R) that `ackIFrame` does not accept sends nothing again (92_eei_decisions.md D18;
log 21). -/
def State.handleReject (s : State) (nr : SeqNum) (now : Nat) : State :=
  let t := s.ackIFrame nr
  if s.l.nrValid nr then State.resendFrom now 128 nr t else t

/-! ### Received frames -/

/-- `Deliver(x)` (R150): to the sink, or through D; a fault of D is latched in L. -/
def State.deliver (s : State) (x : Octet) : State :=
  if s.cfg.compEnabled then
    let d := s.d.write s.cfg x
    if d.fault.isSome then (s.setD d).setL (s.l.raise d.fault)
    else d.out.foldl State.sinkWrite (s.setD { d with out := [] })
  else s.sinkWrite x

/-- `Deliver` for each information octet; a fault ends the operation (R133, R150). -/
def State.deliverAll : State → List Octet → State
  | s, [] => s
  | s, x :: xs => if (s.deliver x).l.fault.isSome then s.deliver x else State.deliverAll (s.deliver x) xs

/-- What follows an in-sequence I-frame's delivery (R133): the RR, unless it can be piggybacked. -/
def State.replyRr (s : State) (addr : Octet) (p : Bool) (now : Nat) : State :=
  if p || !s.canSendIFrame then s.lSend [addr, s.cfg.ctlRr, seqOctet s.l.rxSeqNum p] now else s

/-- `handleIFrame(f, now)` (R133). -/
def State.handleIFrame (s : State) (f : List Octet) (now : Nat) : State :=
  let addr := f.getD 0 0
  let ns := seqField (f.getD 1 0)
  let nr := seqField (f.getD 2 0)
  let p := (f.getD 2 0).getLsbD 0
  let s := s.ackIFrame nr
  if ns ≠ s.l.rxSeqNum then s.lSend [addr, s.cfg.ctlRej, seqOctet s.l.rxSeqNum p] now
  else
    let s := (s.setL { s.l with rxSeqNum := incMod128 s.l.rxSeqNum }).deliverAll ((f.drop 3).take (f.length - 5))
    if s.l.fault.isSome then s else s.replyRr addr p now

/-- `handleSabme(addr, pf, now)` (R137). -/
def State.handleSabme (s : State) (addr : Octet) (pf : Bool) (now : Nat) : State :=
  let t := s.lSend [addr, uOctet s.cfg.ctlUa pf] now
  t.setL { t.l with txSeqNum := 0, rxSeqNum := 0, txSeqAck := 0, sentIFrames := [], phase := .connected }

/-- `handleDisc(addr, pf, now)` (R138). -/
def State.handleDisc (s : State) (addr : Octet) (pf : Bool) (now : Nat) : State :=
  let t := s.lSend [addr, uOctet s.cfg.ctlUa pf] now
  t.setL { t.l with phase := .release }

/-- `handleXid(f, now)` (R145 to R147). -/
def State.handleXid (s : State) (f : List Octet) (now : Nat) : State :=
  match parseXid ((f.drop 2).take (f.length - 4)) with
  | none => s.log [.xidMalformed]
  | some gs =>
    let r := xidEffect s.cfg s.l gs
    ((s.setL r.1).log r.2).lSend (f.getD 0 0 :: f.getD 1 0 :: xidResponse s.cfg gs) now

/-- An S frame of at least five octets (R132). -/
def State.handleS (s : State) (c : Octet) (nr : SeqNum) (now : Nat) : State :=
  if c = s.cfg.ctlRr then s.ackIFrame nr
  else if c = s.cfg.ctlRnr then s.ackIFrame nr
  else if c = s.cfg.ctlRej then s.handleReject nr now
  else s.log [.unknownCmd]

/-- A U frame (R132). -/
def State.handleU (s : State) (f : List Octet) (now : Nat) : State :=
  let c := f.getD 1 0
  if uCode c = s.cfg.ctlSabme then s.handleSabme (f.getD 0 0) (uPf c) now
  else if uCode c = s.cfg.ctlDisc then s.handleDisc (f.getD 0 0) (uPf c) now
  else if uCode c = s.cfg.ctlXid then s.handleXid f now
  else s.log [.unknownCmd]

/-- `handleFrame(f, now)` (R132), its checks in the order of R234. -/
def State.handleFrame (s : State) (f : List Octet) (now : Nat) : State :=
  let c := f.getD 1 0
  if f.length < 4 then s
  else if !checkFcs f then s.log [.badCrc]
  else if c.getLsbD 0 = false then
    if f.length < 5 then s.log [.shortFrame] else s.handleIFrame f now
  else if c.getLsbD 1 = false then
    if f.length < 5 then s.log [.shortFrame] else s.handleS c (seqField (f.getD 2 0)) now
  else s.handleU f now

/-! ### Detection -/

/-- `CheckDetectionTimer(now)` (R130). -/
def State.checkDetectionTimer (s : State) (now : Nat) : State :=
  if s.l.phase = .detection ∧ timerExpired s.l.detStart Config.t400 now then s.setL { s.l with phase := .v14 } else s

/-- `SendAdp` (R128). -/
def State.sendAdp (s : State) : State :=
  (s.setV (({ s.v with txStopBits := Config.adpStopBits }.tx Config.adpE).tx Config.adpC)).setL
    { s.l with adpSent := true }

/-- A character that completes in phase None (R127). -/
def State.firstChar (s : State) (c : Octet) (now : Nat) : State :=
  if isDc1 c then s.setL { s.l with phase := .detection, detStart := now, odpCount := 1, lastOdp := some c }
  else (s.setL { s.l with phase := .v14 }).sinkWrite c

/-- The repetition count after a character `c` in phase Detection that `n` stop and idle bits preceded (R127). -/
def Lapm.countOdp (l : Lapm) (c : Octet) (n : Nat) : Lapm :=
  if l.continuesOdp c n then { l with odpCount := l.odpCount + 1, lastOdp := some c }
  else if isDc1 c then { l with odpCount := 1, lastOdp := some c }
  else { l with odpCount := 0, lastOdp := none }

/-- A character that completes in phase Detection (R127). -/
def State.nextChar (s : State) (c : Octet) (n : Nat) : State :=
  let t := s.setL (s.l.countOdp c n)
  if t.l.odpCount = Config.odpRepeat then t.sendAdp else t

/-- The bit `b` goes to V: the state after it, its events logged, and the character that it completes (R84). -/
def State.vBit (s : State) (b : Bool) : State × Option Octet :=
  let r := s.v.rxBit b
  ((s.setV r.v).log r.events, r.char)

/-- `DetectBit(b, now)` (R127). -/
def State.detectBit (s : State) (b : Bool) (now : Nat) : State :=
  match s.vBit b with
  | (t, none) => t
  | (t, some c) =>
    let n := t.v.maxStopBits
    let t := t.setV t.v.takeRun
    if t.l.phase = .none then t.firstChar c now else t.nextChar c n

/-- A flag while the block waits for one (R129): phase Establish. -/
def State.enterEstablish (s : State) (now : Nat) : State :=
  s.setL { s.l with phase := .establish, inactStart := now, txBitPos := 0 }

/-! ### The receive pump -/

/-- What H recognised on the line, in a phase in which bits go to H (R126, R129, R132): in None and Detection after ADP a
frame is the flag waited for and an abort is ignored; in Establish and Connected a frame is handled and an abort logged. -/
def State.onHdlc (s : State) (r : HdlcResult) (now : Nat) : State :=
  match s.l.phase with
  | .none | .detection =>
    match r with
    | .frame _ => s.enterEstablish now
    | _ => s
  | .establish | .connected =>
    match r with
    | .frame f => s.handleFrame f now
    | .abort => s.log [.abort]
    | .none => s
  | .v14 | .release => s

/-- The bit `b` goes to H, and what H recognises is handled (R126, R129). -/
def State.hBit (s : State) (b : Bool) (now : Nat) : State :=
  let r := s.h.rxBit b
  (s.setH r.1).onHdlc r.2 now

/-- A bit in phase V14 (R126, R131). -/
def State.passBit (s : State) (b : Bool) : State :=
  match s.vBit b with
  | (t, none) => t
  | (t, some c) => t.sinkWrite c

/-- L.RXBIT behind its refusals (R126). -/
def State.lRxBit (s : State) (b : Bool) (now : Nat) : State :=
  let s := s.checkDetectionTimer now
  match s.l.phase with
  | .none | .detection => if s.l.adpSent then s.hBit b now else s.detectBit b now
  | .v14 => s.passBit b
  | .establish | .connected => s.hBit b now
  | .release => s

/-! ### The transmit pump -/

/-- The bit `PopBit(q)` takes (R149); no caller meets an empty queue (log 16). -/
def headBit (q : List Octet) (pos : BitVec 3) : Bool := (q.headD 0).getLsbD pos.toNat

/-- The queue after `PopBit(q)` (R149). -/
def tailBit (q : List Octet) (pos : BitVec 3) : List Octet := if pos = 7 then q.tail else q

/-- `PopBit(V.txQueue)` (R149). -/
def State.popV (s : State) : State :=
  (s.setV { s.v with txQueue := tailBit s.v.txQueue s.l.txBitPos }).setL { s.l with txBitPos := s.l.txBitPos + 1 }

/-- `PopBit(H.txBuffer)` (R149). -/
def State.popH (s : State) : State :=
  (s.setH { s.h with txBuffer := tailBit s.h.txBuffer s.l.txBitPos }).setL { s.l with txBitPos := s.l.txBitPos + 1 }

/-- The refill of V's queue in None and Detection (R144). -/
def State.refillIdle (s : State) : State := if s.v.txQueue.isEmpty then s.setV s.v.flush else s

/-- The refill of V's queue in phase V14 (R144): a source octet, else idle. -/
def State.refillV (s : State) : State :=
  if s.v.txQueue.isEmpty then
    match s.source with
    | b :: rest => (s.setSource rest).setV (s.v.tx b)
    | [] => s.setV s.v.flush
  else s

/-- The refill of H's queue in Establish and Connected (R144): an I-frame, else the keepalive RR (R148), else a flag. -/
def State.refillH (s : State) (now : Nat) : State :=
  if s.h.txBuffer.isEmpty then
    if s.canSendIFrame then s.sendIFrame now
    else if timerExpired s.l.inactStart Config.t403 now then
      s.lSend [s.cfg.addrCmd, s.cfg.ctlRr, seqOctet s.l.rxSeqNum s.cfg.keepaliveP] now
    else s.setH s.h.sendFlag
  else s

/-- In Release the last partial octet is completed with 1 bits (R144). -/
def State.refillRelease (s : State) : State :=
  if s.h.txBuffer.isEmpty then s.setH (Hdlc.fillOnes 8 s.h) else s

/-- L.TXBIT behind its refusals (R144): the state after it and the line bit. -/
def State.lTxBit (s : State) (now : Nat) : State × Bool :=
  let s := s.checkDetectionTimer now
  match s.l.phase with
  | .none | .detection =>
    let s := s.refillIdle
    (s.popV, headBit s.v.txQueue s.l.txBitPos)
  | .v14 =>
    let s := s.refillV
    (s.popV, headBit s.v.txQueue s.l.txBitPos)
  | .establish | .connected =>
    let s := s.refillH now
    (s.popH, headBit s.h.txBuffer s.l.txBitPos)
  | .release =>
    let s := s.refillRelease
    if s.h.txBuffer.isEmpty then (s, true) else (s.popH, headBit s.h.txBuffer s.l.txBitPos)

/-! ### The host operations -/

/-- The refusals of L's pumps (R262, R233). -/
def lPump (s : State) (k : Out) : Out := whenWritten s.written.l s (whenNoFault s.l.fault s k)

/-- An answer of L.RXBIT and of what arrives on the line: none, or the fault that it raised (R233). -/
def doneL (s : State) : Out := done s (faultOr s.l.fault .none)

/-- `L.RXBIT b, now` (R126). -/
def execLRxbit (b : Bool) (now : Nat) (s : State) : Out := lPump s (doneL (s.lRxBit b now))

/-- `L.TXBIT now` (R144). -/
def execLTxbit (now : Nat) (s : State) : Out := lPump s (done (s.lTxBit now).1 (.bit (s.lTxBit now).2))

/-- `L.RESET` (R124): L and the four units it owns; source, sink and trace are outside the block (R260). -/
def execLReset (s : State) : Out :=
  done
    (((((s.setL (Lapm.atReset s.cfg)).setV V14.atReset).setH Hdlc.atReset).setC Comp.atReset).setD Decomp.atReset
      |>.setWritten Written.all) .none

end Sys2Proof.Machine
end

