-- ==== Sys2Proof/Machine/Operands.lean ====
section
/-!
DEFINITION. The operand forms of the wire-format rows: the octets of the frame that carries a control field (30_encoding.md
R54 to R58) or an item of an XID information field (R60).
-/

namespace Sys2Proof.Machine

/-- A received I-frame with its FCS (R54, R56). -/
def iFrameOctets (addr : Octet) (ns nr : SeqNum) (p : Bool) (info : List Octet) : List Octet :=
  withFcs (addr :: seqOctet ns false :: seqOctet nr p :: info)

/-- A received S frame with its FCS (R54, R57). -/
def sFrameOctets (addr code : Octet) (nr : SeqNum) (pf : Bool) : List Octet :=
  withFcs [addr, code, seqOctet nr pf]

/-- A received U frame with its FCS (R54, R58). -/
def uFrameOctets (addr code : Octet) (pf : Bool) (info : List Octet) : List Octet :=
  withFcs (addr :: uOctet code pf :: info)

/-- The information field that holds one group (R60). -/
def xidInfoOfGroup (gi : Octet) (content : List Octet) : List Octet := Config.xidFi :: xidGroupOctets gi content

/-- The information field that holds one parameter, in its group (R60). -/
def xidInfoOfParam (gi pi : Octet) (pv : List Octet) : List Octet := xidInfoOfGroup gi (xidParamOctets pi pv)

end Sys2Proof.Machine
end

