-- ==== Sys2Proof/Machine/WirePatterns.lean ====
section
/-!
DEFINITION. The wire-format rows that arrive on the line. A pattern of line bits (V14CHAR, HFRAME) is the sequence of bits
given to L.RXBIT, which is all that the block sees of the far end (20_memory.md R42; log 9). A control field (CTL_I, CTL_S,
CTL_U) or an XID item (XIDINFO) is the frame that carries it, as H hands it to L (42_lapm.md R126, R132; logs 11 and 12).
The bits of ADP, which the block sends (R128), arrive like any others (log 10).
-/

namespace Sys2Proof.Machine

/-- L.RXBIT for each bit of a pattern, all at time `now`; a fault ends the pattern (R126, R233). -/
def State.lRxBits (now : Nat) : State → List Bool → State
  | s, [] => s
  | s, b :: bs => if (s.lRxBit b now).l.fault.isSome then s.lRxBit b now else State.lRxBits now (s.lRxBit b now) bs

/-- A pattern of line bits arrives. -/
def lineArrives (bits : List Bool) (now : Nat) (s : State) : Out := lPump s (doneL (s.lRxBits now bits))

/-- A frame in a phase in which bits do not go to H (R126): nothing in V14 and Release; in None and Detection before ADP
the receiver of V has the line. -/
def State.readsHdlc (s : State) : Bool :=
  match s.l.phase with
  | .none | .detection => s.l.adpSent
  | .establish | .connected => true
  | .v14 | .release => false

/-- H hands the frame `f` to L at time `now` (R126, R129, R132). -/
def State.lFrame (s : State) (f : List Octet) (now : Nat) : State :=
  let s := s.checkDetectionTimer now
  if s.readsHdlc then s.onHdlc (.frame f) now else s

/-- A frame arrives, its FCS octets included. -/
def frameArrives (f : List Octet) (now : Nat) (s : State) : Out := lPump s (doneL (s.lFrame f now))

/-! ### Formats V14CHAR and HFRAME -/

/-- `V14.CHAR`: a character on the line (R53). -/
def execV14Char (d : Octet) (stops now : Nat) (s : State) : Out := lineArrives (charBits d stops) now s

/-- `ODP`: a DC1 character with 9 or 17 stop bits on the line (R66, R127). -/
def execOdp (parity : Bool) (stops now : Nat) (s : State) : Out := lineArrives (charBits (dc1 parity) stops) now s

/-- `ADP`: the characters `E` and `C`, nine stop bits each, on the line (R66; log 10). The block's own sending of it is
`State.sendAdp` (R128), which only the fourth ODP repetition calls (R127). -/
def execAdp (s : State) (now : Nat := 0) : Out := lineArrives adpBits now s

/-- `FLAG` on the line (R32, R105, R129). -/
def execFlag (now : Nat) (s : State) : Out := lineArrives flagBits now s

/-- `ABORT`: seven or more 1 bits on the line (R105). -/
def execAbort (ones now : Nat) (s : State) : Out := lineArrives (List.replicate ones true) now s

/-- `FRAME`: octets, stuffed between two flags, on the line (R54, R105, R132). -/
def execFrame (octets : List Octet) (now : Nat) (s : State) : Out := lineArrives (frameBits octets) now s

/-! ### Format CTL_I -/

/-- `I` (R56, R133). -/
def execIFrame (addr : Octet) (ns nr : SeqNum) (p : Bool) (info : List Octet) (now : Nat) (s : State) : Out :=
  frameArrives (iFrameOctets addr ns nr p info) now s

/-! ### Format CTL_S -/

/-- `RR` (R57, R134). -/
def execRr (addr : Octet) (nr : SeqNum) (pf : Bool) (now : Nat) (s : State) : Out :=
  frameArrives (sFrameOctets addr s.cfg.ctlRr nr pf) now s

/-- `RNR` (R57, R135). -/
def execRnr (addr : Octet) (nr : SeqNum) (pf : Bool) (now : Nat) (s : State) : Out :=
  frameArrives (sFrameOctets addr s.cfg.ctlRnr nr pf) now s

/-- `REJ` (R57, R136). -/
def execRej (addr : Octet) (nr : SeqNum) (pf : Bool) (now : Nat) (s : State) : Out :=
  frameArrives (sFrameOctets addr s.cfg.ctlRej nr pf) now s

/-- `SREJ` (R57, R140). -/
def execSrej (addr : Octet) (nr : SeqNum) (pf : Bool) (now : Nat) (s : State) : Out :=
  frameArrives (sFrameOctets addr s.cfg.ctlSrej nr pf) now s

/-- `S.other` (R57, R142). -/
def execSOther (addr code : Octet) (nr : SeqNum) (pf : Bool) (now : Nat) (s : State) : Out :=
  frameArrives (sFrameOctets addr code nr pf) now s

/-! ### Format CTL_U -/

/-- `SABME` (R58, R137). -/
def execSabme (addr : Octet) (pf : Bool) (now : Nat) (s : State) : Out :=
  frameArrives (uFrameOctets addr s.cfg.ctlSabme pf []) now s

/-- `DISC` (R58, R138). -/
def execDisc (addr : Octet) (pf : Bool) (now : Nat) (s : State) : Out :=
  frameArrives (uFrameOctets addr s.cfg.ctlDisc pf []) now s

/-- `UA`, received (R58, R142). -/
def execUa (addr : Octet) (pf : Bool) (now : Nat) (s : State) : Out :=
  frameArrives (uFrameOctets addr s.cfg.ctlUa pf []) now s

/-- `XID` (R58, R145 to R147). -/
def execXid (addr : Octet) (pf : Bool) (info : List Octet) (now : Nat) (s : State) : Out :=
  frameArrives (uFrameOctets addr s.cfg.ctlXid pf info) now s

/-- `U.other` (R58, R142). -/
def execUOther (addr code : Octet) (pf : Bool) (now : Nat) (s : State) : Out :=
  frameArrives (uFrameOctets addr code pf []) now s

/-! ### Format XIDINFO: the item in the smallest XID frame that holds it (log 12) -/

/-- An XID frame with the information field `info` arrives (R145). -/
def xidArrives (addr : Octet) (pf : Bool) (info : List Octet) (now : Nat) (s : State) : Out :=
  frameArrives (uFrameOctets addr s.cfg.ctlXid pf info) now s

/-- `XID.FI` (R60, R145). -/
def execXidFi (addr : Octet) (pf : Bool) (now : Nat) (s : State) : Out := xidArrives addr pf [Config.xidFi] now s

/-- `XID.GROUP.PUBLIC` (R60, R145, R146). -/
def execXidGroupPublic (addr : Octet) (pf : Bool) (content : List Octet) (now : Nat) (s : State) : Out :=
  xidArrives addr pf (xidInfoOfGroup Config.xidGidPublic content) now s

/-- `XID.GROUP.PRIVATE` (R60, R145, R146). -/
def execXidGroupPrivate (addr : Octet) (pf : Bool) (content : List Octet) (now : Nat) (s : State) : Out :=
  xidArrives addr pf (xidInfoOfGroup Config.xidGidPrivate content) now s

/-- `XID.GROUP.USERDATA` (R60, R145). -/
def execXidGroupUserdata (addr : Octet) (pf : Bool) (content : List Octet) (now : Nat) (s : State) : Out :=
  xidArrives addr pf (xidInfoOfGroup Config.xidGidUser content) now s

/-- `XID.PARAM.TXSIZE` (R60, R146). -/
def execXidParamTxsize (addr : Octet) (pf : Bool) (pv : List Octet) (now : Nat) (s : State) : Out :=
  xidArrives addr pf (xidInfoOfParam Config.xidGidPublic s.cfg.xidPidTxsize pv) now s

/-- `XID.PARAM.WINDOW` (R60, R146). -/
def execXidParamWindow (addr : Octet) (pf : Bool) (pv : List Octet) (now : Nat) (s : State) : Out :=
  xidArrives addr pf (xidInfoOfParam Config.xidGidPublic s.cfg.xidPidWindow pv) now s

/-- `XID.PARAM.COMPREQ` (R60, R147). -/
def execXidParamCompreq (addr : Octet) (pf : Bool) (pv : List Octet) (now : Nat) (s : State) : Out :=
  xidArrives addr pf (xidInfoOfParam Config.xidGidPrivate s.cfg.xidPidCompreq pv) now s

end Sys2Proof.Machine
end

