-- ==== Sys2Proof/Machine/Dispatch.lean ====
section
/-!
DEFINITION. One arm for each row of spec/opcode_table.json, in the table's order.
-/

namespace Sys2Proof.Machine

def exec (i : Instr) (s : State) : Host.Outcome State Fault Refusal :=
  match i with
  | .v14Setsb n => Sys2Proof.Machine.execV14Setsb n s
  | .v14Tx b => Sys2Proof.Machine.execV14Tx b s
  | .v14Flush => Sys2Proof.Machine.execV14Flush s
  | .v14Rx b => Sys2Proof.Machine.execV14Rx b s
  | .v14Rsb => Sys2Proof.Machine.execV14Rsb s
  | .v14Pop => Sys2Proof.Machine.execV14Pop s
  | .v14Reset => Sys2Proof.Machine.execV14Reset s
  | .v14Rxbit b => Sys2Proof.Machine.execV14Rxbit b s
  | .hCrc16 m => Sys2Proof.Machine.execHCrc16 m s
  | .hSendframe f => Sys2Proof.Machine.execHSendframe f s
  | .hSendflag => Sys2Proof.Machine.execHSendflag s
  | .hRxbit b => Sys2Proof.Machine.execHRxbit b s
  | .hPop => Sys2Proof.Machine.execHPop s
  | .hReset => Sys2Proof.Machine.execHReset s
  | .lRxbit b now => Sys2Proof.Machine.execLRxbit b now s
  | .lTxbit now => Sys2Proof.Machine.execLTxbit now s
  | .lReset => Sys2Proof.Machine.execLReset s
  | .cWrite b => Sys2Proof.Machine.execCWrite b s
  | .cCmode => Sys2Proof.Machine.execCCmode s
  | .cFlush => Sys2Proof.Machine.execCFlush s
  | .cReset => Sys2Proof.Machine.execCReset s
  | .cPop => Sys2Proof.Machine.execCPop s
  | .dWrite b => Sys2Proof.Machine.execDWrite b s
  | .dReset => Sys2Proof.Machine.execDReset s
  | .dPop => Sys2Proof.Machine.execDPop s
  | .v14Char d stops now => Sys2Proof.Machine.execV14Char d stops now s
  | .odp parity stops now => Sys2Proof.Machine.execOdp parity stops now s
  | .adp now => Sys2Proof.Machine.execAdp s now
  | .flag now => Sys2Proof.Machine.execFlag now s
  | .abort ones now => Sys2Proof.Machine.execAbort ones now s
  | .frame octets now => Sys2Proof.Machine.execFrame octets now s
  | .iFrame addr ns nr p info now => Sys2Proof.Machine.execIFrame addr ns nr p info now s
  | .rr addr nr pf now => Sys2Proof.Machine.execRr addr nr pf now s
  | .rnr addr nr pf now => Sys2Proof.Machine.execRnr addr nr pf now s
  | .rej addr nr pf now => Sys2Proof.Machine.execRej addr nr pf now s
  | .srej addr nr pf now => Sys2Proof.Machine.execSrej addr nr pf now s
  | .sOther addr code nr pf now => Sys2Proof.Machine.execSOther addr code nr pf now s
  | .sabme addr pf now => Sys2Proof.Machine.execSabme addr pf now s
  | .disc addr pf now => Sys2Proof.Machine.execDisc addr pf now s
  | .ua addr pf now => Sys2Proof.Machine.execUa addr pf now s
  | .xid addr pf info now => Sys2Proof.Machine.execXid addr pf info now s
  | .uOther addr code pf now => Sys2Proof.Machine.execUOther addr code pf now s
  | .xidFi addr pf now => Sys2Proof.Machine.execXidFi addr pf now s
  | .xidGroupPublic addr pf content now => Sys2Proof.Machine.execXidGroupPublic addr pf content now s
  | .xidGroupPrivate addr pf content now => Sys2Proof.Machine.execXidGroupPrivate addr pf content now s
  | .xidGroupUserdata addr pf content now => Sys2Proof.Machine.execXidGroupUserdata addr pf content now s
  | .xidParamTxsize addr pf pv now => Sys2Proof.Machine.execXidParamTxsize addr pf pv now s
  | .xidParamWindow addr pf pv now => Sys2Proof.Machine.execXidParamWindow addr pf pv now s
  | .xidParamCompreq addr pf pv now => Sys2Proof.Machine.execXidParamCompreq addr pf pv now s
  | .tData b => Sys2Proof.Machine.execTData b s
  | .ecm => Sys2Proof.Machine.execEcm s
  | .eid => Sys2Proof.Machine.execEid s
  | .tReset => Sys2Proof.Machine.execTReset s
  | .tBadcmd cmd => Sys2Proof.Machine.execTBadcmd cmd s
  | .cwEtm => Sys2Proof.Machine.execCwEtm s
  | .cwFlush => Sys2Proof.Machine.execCwFlush s
  | .cwStepup => Sys2Proof.Machine.execCwStepup s
  | .cwData w => Sys2Proof.Machine.execCwData w s

end Sys2Proof.Machine
end

