-- ==== Sys2Proof/Machine/Step.lean ====
section
/-!
DEFINITION. One step: the oldest presentation is taken, decoded and executed as one atomic operation (00_scope.md R3, R51).
-/

namespace Sys2Proof.Machine

/-- One step. Nothing presented: the host does not call, and nothing happens (R239, log 4). Octets for the byte source only
join it (R37). A presentation that is no instruction is refused (R51, R233). -/
def step (s : State) : Host.Outcome State Fault Refusal :=
  match s.input with
  | [] => .next s
  | .supply octets :: rest => .next ((s.setInput rest).setSource (s.source ++ octets))
  | i :: rest =>
    match decode s.cfg i with
    | .ok instr => exec instr (s.setInput rest)
    | .error e => refuse (s.setInput rest) (.undecodable e)

/-- The state with the instruction whose table word is `w` presented first, so that the very next step runs it (log 19). -/
def State.withFetchWord (s : State) (nbits w : Nat) : State := s.setInput (tableInput s.cfg nbits w :: s.input)

end Sys2Proof.Machine
end

