-- ==== Sys2Proof/Safety.lean ====
section
/-!
DEFINITION. The terms in which claims are stated: the bits a unit has yet to send, the invariants of 10_state.md (R21, R22
and the legal values of R12 to R17), and runs of several operations.
-/

namespace Sys2Proof.Machine

/-! ### Bits that wait to be sent -/

/-- The line bits V holds: the queued octets, then the pending bits of the octet being assembled (R81). -/
def V14.lineBits (v : V14) : List Bool := octetsBits v.txQueue ++ (octetBits v.txCurByte).take v.txBitCount.toNat

/-- The line bits H holds: the queued octets, then the pending bits (R101). -/
def Hdlc.lineBits (h : Hdlc) : List Bool := octetsBits h.txBuffer ++ (octetBits h.txCur).take h.txCnt.toNat

/-- The line bits that L.TXBIT has still to take from V: the head octet's first `txBitPos` bits are gone (R149). -/
def State.waitingV (s : State) : List Bool := s.v.lineBits.drop s.l.txBitPos.toNat

/-- The line bits that L.TXBIT has still to take from H (R149). -/
def State.waitingH (s : State) : List Bool := s.h.lineBits.drop s.l.txBitPos.toNat

/-- The low `n` bits of a number, low bit first (R34). -/
def lowBits (n w : Nat) : List Bool := (List.range n).map w.testBit

/-- The bits of the codeword stream that C holds: the octets of `C.out`, then the pending bits (R34, R191). -/
def Comp.streamBits (c : Comp) : List Bool := octetsBits c.out ++ lowBits c.bitCnt c.bitBuf

/-! ### Invariants -/

/-- The invariants of V (R21) and the legal values of R12. -/
abbrev V14.inv (v : V14) : Prop :=
  v.rxBitCount.toNat ≤ 8 ∧ (v.rxState = .receiving → v.rxBitCount.toNat ≤ 7) ∧ 1 ≤ v.txStopBits
  ∧ v.rxCurByte >>> v.rxBitCount.toNat = 0 ∧ v.txCurByte >>> v.txBitCount.toNat = 0 ∧ v.missGap.toNat ≤ 5

/-- The legal values of R13: bits at and above a count are 0, and at most four 1s stand without a stuffed 0. -/
abbrev Hdlc.inv (h : Hdlc) : Prop :=
  h.txCur >>> h.txCnt.toNat = 0 ∧ h.rxCur >>> h.rxCnt.toNat = 0 ∧ h.txOnes.toNat ≤ 4

/-- The legal values of R14: four repetitions are counted only once ADP is sent (R127), which is never in phase None
(R18, R123); the last counted character is a DC1, keys are sequence numbers, stored frames have their three header octets. -/
abbrev Lapm.inv (l : Lapm) : Prop :=
  (l.odpCount.toNat ≤ 3 ∨ (l.odpCount = 4 ∧ l.adpSent = true)) ∧ (l.phase = .none → l.adpSent = false)
  ∧ (∀ c ∈ l.lastOdp, isDc1 c = true)
  ∧ ∀ e ∈ l.sentIFrames, e.1 < 128 ∧ 3 ≤ e.2.length

/-- The number of nodes on the parent chain of `i`, itself included, if the chain ends at a root within `fuel` nodes. -/
def V42Base.chainLen (x : V42Base) : Nat → Nat → Option Nat
  | 0, _ => none
  | fuel + 1, i =>
    match (x.nodeAt i).parent with
    | .root => some 1
    | .node q => (V42Base.chainLen x fuel q).map (· + 1)
    | .free => none

/-- The widths of R22 (h): the threshold is `2 ^ codeWordSize` and does not exceed the dictionary. -/
abbrev V42Base.widthInv (p : Params) (x : V42Base) : Prop :=
  9 ≤ x.codeWordSize ∧ x.codeWordThreshold = 2 ^ x.codeWordSize ∧ x.codeWordThreshold ≤ p.maxCodeWords

/-- R171: the roots are permanent, and what is neither root nor dynamic holds no node. -/
def V42Base.rootInv (p : Params) (x : V42Base) : Prop :=
  (∀ b : Octet, (x.nodeAt (Config.cwReserved + b.toNat)).parent = .root
    ∧ (x.nodeAt (Config.cwReserved + b.toNat)).character = b)
  ∧ ∀ i, i < Config.cwReserved ∨ p.maxCodeWords ≤ i → x.isFree i = true

/-- The tree of R22 (c), (d), (e): a free node has no children, `children` and `parent` say the same, a dynamic node is no
root, and every chain ends at a root within `maxStringLength` nodes. -/
def V42Base.treeInv (p : Params) (x : V42Base) : Prop :=
  (∀ i, x.isFree i = true → x.isLeaf i = true)
  ∧ (∀ q k i, Cells.lookup (x.nodeAt q).children k = some i ↔
      (Config.cwFirst ≤ i ∧ (x.nodeAt i).parent = .node q ∧ (x.nodeAt i).character.toNat = k))
  ∧ (∀ i, Config.cwFirst ≤ i → (x.nodeAt i).parent ≠ .root)
  ∧ ∀ i, x.inUse i = true → (x.chainLen p.maxStringLength i).isSome

/-- R22 (f), (g): the next slot is a free dynamic node; the match is an in-use node and `matchLen` its chain's length. -/
def V42Base.matchInv (p : Params) (x : V42Base) : Prop :=
  (Config.cwFirst ≤ x.nextCodeWord ∧ x.nextCodeWord < p.maxCodeWords ∧ x.isFree x.nextCodeWord = true)
  ∧ (match x.curCode with
     | none => x.matchLen = 0
     | some i => x.inUse i = true ∧ x.chainLen p.maxStringLength i = some x.matchLen)

/-- The dictionary invariants of R22. -/
def V42Base.inv (p : Params) (x : V42Base) : Prop := x.widthInv p ∧ x.rootInv p ∧ x.treeInv p ∧ x.matchInv p

/-- The legal values of R16. -/
def Comp.inv (p : Params) (c : Comp) : Prop :=
  c.base.inv p ∧ c.bitCnt ≤ 7 ∧ c.bitBuf < 2 ^ c.bitCnt ∧ 1 ≤ c.testCount ∧ c.testCount ≤ 256

/-- The legal values of R17; nothing is pending in transparent mode, and no pair is open in compressed mode. -/
def Decomp.inv (p : Params) (d : Decomp) : Prop :=
  d.base.inv p ∧ d.inBuf < 2 ^ d.inCnt ∧ d.inCnt < d.base.codeWordSize
  ∧ (d.base.transparent = true → d.inCnt = 0) ∧ (d.base.transparent = false → d.escaped = false)

/-! ### What an instruction leaves -/

/-- L's pumps are open: L is written and has no fault (R262, R233). -/
abbrev State.pumpsOpen (s : State) : Prop := s.written.l = true ∧ s.l.fault = none

/-- L handles frames: Establish or Connected (R126, R132). -/
abbrev State.handlesFrames (s : State) : Prop := s.l.phase = .establish ∨ s.l.phase = .connected

/-- D takes its stream: D is written and has no fault (R262, R211). -/
abbrev State.takesStream (s : State) : Prop := s.written.d = true ∧ s.d.fault = none

/-- V has queued the line bits `bits` behind those that it held; nothing else of V has changed (R81). -/
abbrev V14.queued (v k : V14) (bits : List Bool) : Prop :=
  k.lineBits = v.lineBits ++ bits ∧ k.inv
  ∧ k = { v with txQueue := k.txQueue, txCurByte := k.txCurByte, txBitCount := k.txBitCount }

/-- H has queued the line bits `bits` of flags and frames behind those that it held; the receiver is as before (R101). -/
abbrev Hdlc.queued (h k : Hdlc) (bits : List Bool) : Prop :=
  k.lineBits = h.lineBits ++ bits ∧ k.inv ∧ (k.txOnes = if bits = [] then h.txOnes else 0)
  ∧ k = { h with txBuffer := k.txBuffer, txCur := k.txCur, txCnt := k.txCnt, txOnes := k.txOnes }

/-- The bits that H has received and not yet handed over (R105). -/
def Hdlc.heldBits (h : Hdlc) : List Bool := octetsBits h.rxFrame ++ (octetBits h.rxCur).take h.rxCnt.toNat

/-- H has shifted the bit `b` in, its run of 1s now being `ones` (R105, `Shift`); the transmitter is as before. -/
abbrev Hdlc.shifted (h k : Hdlc) (b : Bool) (ones : BitVec 3) : Prop :=
  k.heldBits = h.heldBits ++ [b] ∧ k.inv
  ∧ k = { h with rxOnes := ones, rxFrame := k.rxFrame, rxCur := k.rxCur, rxCnt := k.rxCnt }

/-- The line bits of frames sent one after another, each with its own FCS and flags (R104). -/
def framesLine (fs : List (List Octet)) : List Bool := fs.flatMap fun f => frameBits (withFcs f)

/-- The test of R125, written out: how far `nr` is ahead of V(A), and V(S) ahead of `nr`. -/
abbrev Lapm.accepts (l : Lapm) (nr : SeqNum) : Prop :=
  (nr - l.txSeqAck).toNat ≤ 64 ∧ (l.txSeqNum - nr).toNat ≤ 64 ∧ (nr = l.txSeqAck ∨ l.txSeqAck ≠ l.txSeqNum)

/-- V(A) after an N(R) (R125). -/
def Lapm.ackAfter (l : Lapm) (nr : SeqNum) : SeqNum := if l.accepts nr then nr else l.txSeqAck

/-- The events that an N(R) gives (R125). -/
def Lapm.ackEvents (l : Lapm) (nr : SeqNum) : List Event := if l.accepts nr then [] else [.badNr]

/-- The stored frame under `q` after an N(R): none where `nr` acknowledges `q` (R125). -/
def Lapm.sentAfter (l : Lapm) (nr q : SeqNum) : Option (List Octet) :=
  if l.accepts nr ∧ (q - l.txSeqAck).toNat < (nr - l.txSeqAck).toNat then none
  else Cells.lookup l.sentIFrames q.toNat

/-- A stored frame as it is sent again: N(R) is V(R), the P bit is kept (R136). -/
def Lapm.renumbered (l : Lapm) (fr : List Octet) : List Octet :=
  fr.set 2 (seqOctet l.rxSeqNum ((fr.getD 2 0).getLsbD 0))

/-- The frames that a REJ makes L send again, from `nr` up to V(S), in order; none where `nr` is not accepted (R136, D18;
log 21). -/
def Lapm.resent (l : Lapm) (nr : SeqNum) : List (List Octet) :=
  if l.accepts nr then
    (List.range (l.txSeqNum - nr).toNat).filterMap fun k =>
      (Cells.lookup l.sentIFrames (nr + BitVec.ofNat 7 k).toNat).map l.renumbered
  else []

/-- Whether an acknowledgement can be piggybacked: an I-frame could be sent now (R133), V(A) being `ack`. -/
def State.piggybacks (s : State) (ack : SeqNum) : Bool :=
  decide (s.l.phase = .connected) && decide ((s.l.txSeqNum - ack).toNat < s.l.txWindow) && decide (s.source ≠ [])

/-! ### XID information fields (R60, R145 to R147) -/

/-- The octets of a group (R60). -/
def XidGroup.octets : XidGroup → List Octet
  | .params gi ps => xidGroupOctets gi (ps.flatMap fun x => xidParamOctets x.pi x.pv)
  | .skipped gi content => xidGroupOctets gi content

/-- A group that an information field can hold: what is parsed as parameters is of group 0x80 or 0xF0, and every length
fits its field (R60). -/
def XidGroup.fits : XidGroup → Bool
  | .params gi ps =>
    (gi == Config.xidGidPublic || gi == Config.xidGidPrivate) && (ps.all fun x => decide (x.pv.length < 256))
    && decide ((ps.flatMap fun x => xidParamOctets x.pi x.pv).length < 65536)
  | .skipped gi content => gi != Config.xidGidPublic && gi != Config.xidGidPrivate && decide (content.length < 65536)

/-- The value of the last public parameter `pid` of the groups, if there is one (R146). -/
def lastPublic (pid : Octet) (gs : List XidGroup) : Option Nat :=
  ((gs.flatMap fun g =>
    match g with
    | .params gi ps => if gi = Config.xidGidPublic then ps else []
    | .skipped _ _ => []).filter fun x => x.pi = pid).getLast?.map fun x => natOfOctetsBE x.pv

/-- The identifiers that R146 knows in a group. -/
def knownParams (p : Params) (gi : Octet) : List Octet :=
  if gi = Config.xidGidPublic then p.xidPidTxsize :: p.xidPidWindow :: Config.xidPublicKnown
  else p.xidPidCompreq :: Config.xidPrivateKnown

/-- One XID_UNKNOWN_PARAM for each unknown parameter and each unknown group; the user-data group is silent (R145, R146). -/
def XidGroup.unknowns (p : Params) : XidGroup → List Event
  | .params gi ps => (ps.filter fun x => !(knownParams p gi).contains x.pi).map fun _ => .xidUnknownParam
  | .skipped gi _ => if gi = Config.xidGidUser then [] else [.xidUnknownParam]

/-- A group in the response: the value octets of the compression request are 0 (R147). -/
def XidGroup.answered (p : Params) : XidGroup → XidGroup
  | .params gi ps =>
    .params gi (ps.map fun x =>
      if gi = Config.xidGidPrivate ∧ x.pi = p.xidPidCompreq then { x with pv := List.replicate x.pv.length 0 } else x)
  | .skipped gi content => .skipped gi content

/-- `t` is `s` after an XID frame with the groups `gs` (R145 to R147): L has learned the last size and window, the unknown
identifiers are logged, the response is queued, and nothing else has changed. -/
abbrev State.afterXid (s : State) (addr : Octet) (pf : Bool) (gs : List XidGroup) (now : Nat) (t : State) : Prop :=
  s.h.queued t.h
    (frameBits (withFcs (addr :: uOctet s.cfg.ctlXid pf :: Config.xidFi
      :: gs.flatMap fun g => (g.answered s.cfg).octets)))
  ∧ t = { s with
      h := t.h
      l := { s.l with
        txMaxSize := ((lastPublic s.cfg.xidPidTxsize gs).map (· / s.cfg.xidLenDiv)).getD s.l.txMaxSize
        txWindow := (lastPublic s.cfg.xidPidWindow gs).getD s.l.txWindow
        inactStart := now }
      trace := s.trace ++ gs.flatMap (XidGroup.unknowns s.cfg)
      result := .none }

/-! ### Codewords on the line (R191, R193) -/

/-- `y` is `x` after the codewords that send `code`: as many STEPUPs as make the width hold `code` and `next`, then `code`;
`bits` are what is queued (R193, R191). -/
abbrev V42Base.stepsTo (x y : V42Base) (next code k : Nat) (bits : List Bool) : Prop :=
  max next code < 2 ^ (x.codeWordSize + k) ∧ (∀ j < k, 2 ^ (x.codeWordSize + j) ≤ max next code)
  ∧ y.codeWordSize = x.codeWordSize + k ∧ y.codeWordThreshold = 2 ^ (x.codeWordSize + k)
  ∧ bits = (List.range k).flatMap (fun j => lowBits (x.codeWordSize + j) Config.cwStepup)
      ++ lowBits (x.codeWordSize + k) code

/-- The instruction of a codeword's value (R62). -/
def codewordInstr (w : Nat) : Instr :=
  if w = 0 then .cwEtm else if w = 1 then .cwFlush else if w = 2 then .cwStepup else .cwData w

/-! ### Units -/

/-- The units of R1. -/
inductive UnitName where
  | v
  | h
  | l
  | c
  | d
deriving DecidableEq, Repr

/-- The unit whose operation an instruction is: L for what arrives on the line, D for what stands for octets or codewords of its
stream (R52, R53 to R62; log 2). -/
def unitOf : Instr → UnitName
  | .v14Setsb _ | .v14Tx _ | .v14Flush | .v14Rx _ | .v14Rsb | .v14Pop | .v14Reset | .v14Rxbit _ => .v
  | .hCrc16 _ | .hSendframe _ | .hSendflag | .hRxbit _ | .hPop | .hReset => .h
  | .lRxbit _ _ | .lTxbit _ | .lReset => .l
  | .cWrite _ | .cCmode | .cFlush | .cReset | .cPop => .c
  | .dWrite _ | .dReset | .dPop => .d
  | .v14Char _ _ _ | .odp _ _ _ | .adp _ | .flag _ | .abort _ _ | .frame _ _ => .l
  | .iFrame _ _ _ _ _ _ => .l
  | .rr _ _ _ _ | .rnr _ _ _ _ | .rej _ _ _ _ | .srej _ _ _ _ | .sOther _ _ _ _ _ => .l
  | .sabme _ _ _ | .disc _ _ _ | .ua _ _ _ | .xid _ _ _ _ | .uOther _ _ _ _ => .l
  | .xidFi _ _ _ | .xidGroupPublic _ _ _ _ | .xidGroupPrivate _ _ _ _ | .xidGroupUserdata _ _ _ _ => .l
  | .xidParamTxsize _ _ _ _ | .xidParamWindow _ _ _ _ | .xidParamCompreq _ _ _ _ => .l
  | .tData _ | .ecm | .eid | .tReset | .tBadcmd _ => .d
  | .cwEtm | .cwFlush | .cwStepup | .cwData _ => .d

/-- The time at which the frame of a control-field row or of an XID item is handed to L; none for any other row (logs 11 and
12). -/
def frameTime : Instr → Option Nat
  | .v14Setsb _ | .v14Tx _ | .v14Flush | .v14Rx _ | .v14Rsb | .v14Pop | .v14Reset | .v14Rxbit _ => none
  | .hCrc16 _ | .hSendframe _ | .hSendflag | .hRxbit _ | .hPop | .hReset => none
  | .lRxbit _ _ | .lTxbit _ | .lReset => none
  | .cWrite _ | .cCmode | .cFlush | .cReset | .cPop => none
  | .dWrite _ | .dReset | .dPop => none
  | .v14Char _ _ _ | .odp _ _ _ | .adp _ | .flag _ | .abort _ _ | .frame _ _ => none
  | .iFrame _ _ _ _ _ now => some now
  | .rr _ _ _ now | .rnr _ _ _ now | .rej _ _ _ now | .srej _ _ _ now | .sOther _ _ _ _ now => some now
  | .sabme _ _ now | .disc _ _ now | .ua _ _ now | .xid _ _ _ now | .uOther _ _ _ now => some now
  | .xidFi _ _ now | .xidGroupPublic _ _ _ now | .xidGroupPrivate _ _ _ now | .xidGroupUserdata _ _ _ now => some now
  | .xidParamTxsize _ _ _ now | .xidParamWindow _ _ _ now | .xidParamCompreq _ _ _ now => some now
  | .tData _ | .ecm | .eid | .tReset | .tBadcmd _ => none
  | .cwEtm | .cwFlush | .cwStepup | .cwData _ => none

/-- The RESET operation of a unit (R260). -/
def UnitName.reset : UnitName → Instr
  | .v => .v14Reset
  | .h => .hReset
  | .l => .lReset
  | .c => .cReset
  | .d => .dReset

/-- Whether a unit has had its first RESET (R262). -/
def Written.unit (w : Written) : UnitName → Bool
  | .v => w.v
  | .h => w.h
  | .l => w.l
  | .c => w.c
  | .d => w.d

/-- The octets that a result carries: the one of `octet`, none of any other. -/
def Result.octets : Result → List Octet
  | .octet b => [b]
  | _ => []

/-- Several instructions one after another: the state after them and their results, if every one answers a next state. -/
def execAll : List Instr → State → Option (State × List Result)
  | [], s => some (s, [])
  | i :: is, s =>
    match exec i s with
    | .next t => (execAll is t).map fun r => (r.1, t.result :: r.2)
    | _ => none

end Sys2Proof.Machine
end

