-- ==== Sys2Proof/Certificates/Slice0/Obligations.lean ====
section
/-!
DEFINITION. The statements for the provers. A statement of what an instruction does concludes that `exec` answers a next
state and writes that state as an update of the state before, so that what the update does not name is unchanged.
-/

section Slice0Statements

open Sys2Proof Sys2Proof.Machine

/-! ### Encoding and the step -/

/-- Decoding the presentation of a well-formed instruction gives it back; and what decodes at all is well formed, so that
its own presentation means the same (30_encoding.md R53 to R62; the layout of operands behind a selector and of what
accompanies a wire pattern is the model's, logs 5 and 8). -/
def Obligations.DecodeEncodeAgree : Prop :=
  ∀ (p : Params) (i : Instr) (x : Input), p.wf = true →
    (wellFormed p i = true → decode p (encode p i) = .ok i)
    ∧ (decode p x = .ok i → wellFormed p i = true)

/-- Words written out from the encodings of R52, R53, R56, R57, R58 and R62, as the model presents them: the octets of an
operation, line bits with a time, a frame without its FCS, a codeword's value (the model's choice, logs 5 and 8), under the
default codes (presumed, log 1). -/
def Obligations.SampleWords : Prop :=
  decode Params.defaults (.op [0x11, 0x41]) = .ok (.v14Tx 0x41)
  ∧ decode Params.defaults (.op [0x43]) = .ok .cReset
  ∧ decode Params.defaults (.line [false, true, false, false, false, false, false, true, false, true] 7)
      = .ok (.v14Char 0x41 1 7)
  ∧ decode Params.defaults (.frame [0x01, 0x02, 0x07, 0x48] 0) = .ok (.iFrame 0x01 1 3 true [0x48] 0)
  ∧ decode Params.defaults (.frame [0x01, 0x09, 0x02] 0) = .ok (.rej 0x01 1 false 0)
  ∧ decode Params.defaults (.frame [0x01, 0x7F] 0) = .ok (.sabme 0x01 true 0)
  ∧ decode Params.defaults (.codeword 259) = .ok (.cwData 259)

/-- A step takes the oldest presentation and runs the instruction that it decodes to; octets for the source only join it;
what is no instruction, an unknown selector for one, is refused; with nothing presented nothing happens (R3, R37, R51; logs
4 and 5). -/
def Obligations.StepRunsDecoded : Prop :=
  ∀ (s : State) (x : Input) (rest : List Input),
    (s.input = [] → step s = .next s)
    ∧ (s.input = x :: rest →
        (∀ i, decode s.cfg x = .ok i → step s = exec i { s with input := rest })
        ∧ (∀ octets, x = .supply octets → step s = .next { s with input := rest, source := s.source ++ octets })
        ∧ (∀ sel args, x = .op (sel :: args) → sel ∉ selectors →
            step s = .next { s with input := rest, result := .refused (.undecodable .unknownSelector) })
        ∧ (∀ e, decode s.cfg x = .error e → (∀ octets, x ≠ .supply octets) →
            step s = .next { s with input := rest, result := .refused (.undecodable e) }))

/-! ### Unit V -/

/-- R80, R86: V14.SETSB writes the count, and 0 is refused; V14.RSB answers the longest run and clears it. -/
def Obligations.V14SetsbAndRsb : Prop :=
  ∀ (s : State) (n : Nat), s.written.v = true →
    (n ≠ 0 → exec (.v14Setsb n) s = .next { s with v := { s.v with txStopBits := n }, result := .none })
    ∧ (n = 0 → exec (.v14Setsb n) s = .next { s with result := .refused .zeroStopBits })
    ∧ exec .v14Rsb s = .next { s with v := { s.v with maxStopBits := 0 }, result := .nat s.v.maxStopBits }

/-- R81 to R83: V14.TX queues a 0, the data bits low bit first, and `txStopBits` 1s. V14.FLUSH completes the octet with 1s, or
queues eight; it pushes one octet and leaves none in part. -/
def Obligations.V14TxAndFlushQueue : Prop :=
  ∀ (s : State) (b : Octet), s.written.v = true → s.v.inv →
    (∃ t, exec (.v14Tx b) s = .next t ∧ t = { s with v := t.v, result := .none }
      ∧ s.v.queued t.v ([false] ++ (List.range 8).map b.getLsbD ++ List.replicate s.v.txStopBits true))
    ∧ ∃ t, exec .v14Flush s = .next t ∧ t = { s with v := t.v, result := .none }
        ∧ s.v.queued t.v (List.replicate (8 - s.v.txBitCount.toNat) true)
        ∧ t.v.txBitCount = 0 ∧ t.v.txQueue.length = s.v.txQueue.length + 1

/-- R84: the three states of the receiver, a bit at a time. -/
def Obligations.V14RxbitEffect : Prop :=
  ∀ (s : State) (b : Bool), s.written.v = true → s.v.inv →
    exec (.v14Rxbit b) s = .next (
      let cur := s.v.rxCurByte ||| (if b then 1 <<< s.v.rxBitCount.toNat else 0)
      match s.v.rxState, b with
      | .idle, true =>
        { s with
          v := { s.v with
            rxStopBits := s.v.rxStopBits + 1, maxStopBits := max s.v.maxStopBits (s.v.rxStopBits + 1) }
          result := .none }
      | .idle, false =>
        { s with
          v := { s.v with rxState := .receiving, rxCurByte := 0, rxBitCount := 0, rxStopBits := 0 }
          result := .none }
      | .receiving, _ =>
        if s.v.rxBitCount.toNat = 7 then
          { s with
            v := { s.v with
              rxCurByte := cur, rxBitCount := 8, rxState := .stopBit
              missGap := BitVec.ofNat 3 (min (s.v.missGap.toNat + 1) 5) }
            result := .octet cur }
        else
          { s with
            v := { s.v with rxCurByte := cur, rxBitCount := BitVec.ofNat 4 (s.v.rxBitCount.toNat + 1) }
            result := .none }
      | .stopBit, true =>
        { s with
          v := { s.v with rxStopBits := 1, maxStopBits := max s.v.maxStopBits 1, rxState := .idle }
          result := .none }
      | .stopBit, false =>
        { s with
          v := { s.v with
            missGap := 0, rxState := .receiving, rxCurByte := 0, rxBitCount := 0, rxStopBits := 0 }
          trace := s.trace ++ if s.v.missGap.toNat ≤ 4 then [.stopbitMissing] else []
          result := .none })

/-- R85: V14.RX is eight V14.RXBIT, bit 0 first; at most one character completes, and it is the answer, else -1. -/
def Obligations.V14RxIsEightBits : Prop :=
  ∀ (s : State) (b : Octet), s.written.v = true → s.v.inv →
    ∃ u rs, execAll ((List.range 8).map fun k => .v14Rxbit (b.getLsbD k)) s = some (u, rs)
      ∧ (rs.flatMap Result.octets).length ≤ 1
      ∧ exec (.v14Rx b) s = .next { u with
          result := match rs.flatMap Result.octets with
            | c :: _ => .octet c
            | [] => .minusOne }

/-- R87, R108, R199, R224: a POP answers the head of its queue and removes it; an empty queue is refused with no change.
D.POP does so while a fault is latched, too. -/
def Obligations.PopTakesHead : Prop :=
  ∀ (s : State) (b : Octet) (q : List Octet),
    (s.written.v = true →
      (s.v.txQueue = b :: q →
        exec .v14Pop s = .next { s with v := { s.v with txQueue := q }, result := .octet b })
      ∧ (s.v.txQueue = [] → exec .v14Pop s = .next { s with result := .refused .emptyQueue }))
    ∧ (s.written.h = true →
      (s.h.txBuffer = b :: q →
        exec .hPop s = .next { s with h := { s.h with txBuffer := q }, result := .octet b })
      ∧ (s.h.txBuffer = [] → exec .hPop s = .next { s with result := .refused .emptyQueue }))
    ∧ (s.written.c = true →
      (s.c.out = b :: q → exec .cPop s = .next { s with c := { s.c with out := q }, result := .octet b })
      ∧ (s.c.out = [] → exec .cPop s = .next { s with result := .refused .emptyQueue }))
    ∧ (s.written.d = true →
      (s.d.out = b :: q → exec .dPop s = .next { s with d := { s.d with out := q }, result := .octet b })
      ∧ (s.d.out = [] → exec .dPop s = .next { s with result := .refused .emptyQueue }))

/-- R89: what V14.TX and one V14.FLUSH queue, popped and given to V14.RX of a reset receiver, is what was transmitted, with
no event. Transmitter and receiver share no register, so one V serves as both. -/
def Obligations.V14RoundTrip : Prop :=
  ∀ (s : State) (octets : List Octet) (stops : Nat), 1 ≤ stops →
    ∃ t u w as bs cs,
      execAll (.v14Reset :: .v14Setsb stops :: (octets.map .v14Tx ++ [.v14Flush])) s = some (t, as)
      ∧ execAll (List.replicate t.v.txQueue.length .v14Pop) t = some (u, bs) ∧ u.v.txQueue = []
      ∧ execAll ((bs.flatMap Result.octets).map .v14Rx) u = some (w, cs)
      ∧ cs.flatMap Result.octets = octets ∧ w.trace = s.trace

/-! ### Unit H -/

/-- R100: H.CRC16 runs the bits of the octets, bit 0 first, through the register and changes nothing. -/
def Obligations.HCrc16Value : Prop :=
  ∀ (s : State) (m : List Octet), s.written.h = true →
    exec (.hCrc16 m) s = .next { s with
      result := .word
        (m.foldl
          (fun crc o =>
            (List.range 8).foldl
              (fun (r : BitVec 16) k => if (r.getLsbD 0 ^^ o.getLsbD k) = true then (r >>> 1) ^^^ 0x8408 else r >>> 1) crc)
          (0xFFFF : BitVec 16) ^^^ 0xFFFF) }

/-- R102, R104: H.SENDFLAG queues 0,1,1,1,1,1,1,0; H.SENDFRAME a flag, the stuffed octets and FCS, and a flag. -/
def Obligations.HSendQueuesLine : Prop :=
  ∀ (s : State) (f : List Octet), s.written.h = true → s.h.inv →
    (∃ t, exec .hSendflag s = .next t ∧ t = { s with h := t.h, result := .none }
      ∧ s.h.queued t.h [false, true, true, true, true, true, true, false])
    ∧ ∃ t, exec (.hSendframe f) s = .next t ∧ t = { s with h := t.h, result := .none }
        ∧ s.h.queued t.h
            (flagBits
              ++ stuffBits 0 (octetsBits (f ++ [(crc16 f).extractLsb' 0 8, (crc16 f).extractLsb' 8 8]))
              ++ flagBits)

/-- R109, R103: stuffed bits never hold six consecutive 1s, and taking the stuffed 0s out gives the bits back. -/
def Obligations.StuffingLimitsOnes : Prop :=
  ∀ bits : List Bool,
    ¬ (List.replicate 6 true <:+: stuffBits 0 bits) ∧ destuffBits 0 (stuffBits 0 bits) = some bits

/-- R105: the recognition of a stuffed bit, a flag and an abort, and the shifting of all other bits. -/
def Obligations.HRxbitEffect : Prop :=
  ∀ (s : State) (b : Bool), s.written.h = true → s.h.inv →
    ∃ t, exec (.hRxbit b) s = .next t
      ∧ (b = true → s.h.rxOnes = 7 → t = { s with result := .none })
      ∧ (b = true → s.h.rxOnes = 6 →
          t = { s with
            h := { s.h with rxOnes := 7, rxFrame := [], rxCur := 0, rxCnt := 0 }
            trace := s.trace ++ [.abort], result := .abort })
      ∧ (b = true → s.h.rxOnes.toNat < 6 →
          t = { s with h := t.h, result := .none }
          ∧ s.h.shifted t.h true (BitVec.ofNat 3 (s.h.rxOnes.toNat + 1)))
      ∧ (b = false → s.h.rxOnes = 5 → t = { s with h := { s.h with rxOnes := 0 }, result := .none })
      ∧ (b = false → s.h.rxOnes = 6 →
          t = { s with
            h := { s.h with rxOnes := 0, rxFrame := [], rxCur := 0, rxCnt := 0 }
            result := .frame s.h.rxFrame })
      ∧ (b = false → s.h.rxOnes ≠ 5 → s.h.rxOnes ≠ 6 →
          t = { s with h := t.h, result := .none } ∧ s.h.shifted t.h false 0)

/-- R109: the line bits of H.SENDFRAME, given to H.RXBIT of a reset receiver, give `frame([])` at the end of the opening flag
and the octets with a good FCS at the end of the closing flag, and nothing else; between the flags no six consecutive 1s
stand. -/
def Obligations.HdlcRoundTrip : Prop :=
  ∀ (s : State) (f : List Octet),
    ∃ t u as bs n line,
      execAll [.hReset, .hSendframe f] s = some (t, as)
      ∧ t.h.lineBits = flagBits ++ (line ++ flagBits) ∧ ¬ (List.replicate 6 true <:+: line)
      ∧ execAll (t.h.lineBits.map .hRxbit) t = some (u, bs)
      ∧ bs = List.replicate 7 .none ++ .frame [] :: (List.replicate n .none ++ [.frame (withFcs f)])
      ∧ checkFcs (withFcs f) = true ∧ u.trace = s.trace

/-! ### Resets -/

/-- R88, R107, R190, R210, R124, R173, R261: every RESET gives its unit the reset values, whatever went before, and touches
nothing else; L.RESET resets all five. The dictionaries then hold the 256 roots, and every other node is free. -/
def Obligations.ResetsRestore : Prop :=
  ∀ s : State,
    let v0 : V14 :=
      { rxState := .idle, rxCurByte := 0, rxBitCount := 0, rxStopBits := 0, maxStopBits := 0, missGap := 5
        txCurByte := 0, txBitCount := 0, txQueue := [], txStopBits := 1 }
    let h0 : Hdlc :=
      { txCur := 0, txCnt := 0, txOnes := 0, txBuffer := [], rxOnes := 0, rxCur := 0, rxCnt := 0, rxFrame := [] }
    let l0 : Lapm :=
      { phase := .none, txSeqNum := 0, rxSeqNum := 0, txSeqAck := 0, sentIFrames := []
        txMaxSize := s.cfg.txMaxSizeDefault, txWindow := s.cfg.txWindowDefault, detStart := 0, inactStart := 0
        odpCount := 0, lastOdp := none, adpSent := false, txBitPos := 0, fault := none }
    let c0 : Comp :=
      { base := V42Base.atReset, compressTest := 0, testCount := 64, bitBuf := 0, bitCnt := 0, out := [] }
    let d0 : Decomp :=
      { base := V42Base.atReset, escaped := false, inBuf := 0, inCnt := 0, fault := none, out := [] }
    let x := V42Base.atReset
    exec .v14Reset s = .next { s with v := v0, written := { s.written with v := true }, result := .none }
    ∧ exec .hReset s = .next { s with h := h0, written := { s.written with h := true }, result := .none }
    ∧ exec .cReset s = .next { s with c := c0, written := { s.written with c := true }, result := .none }
    ∧ exec .dReset s = .next { s with d := d0, written := { s.written with d := true }, result := .none }
    ∧ exec .lReset s = .next
        { s with l := l0, v := v0, h := h0, c := c0, d := d0, written := Written.all, result := .none }
    ∧ (x.curCode, x.matchLen, x.lastAdded, x.nextCodeWord) = (none, 0, none, 259)
    ∧ (x.codeWordSize, x.codeWordThreshold, x.escapeCode) = (9, 512, 0)
    ∧ (x.transparent, x.modeTransition) = (true, false)
    ∧ (∀ b : Octet, x.nodeAt (3 + b.toNat) = { character := b, parent := .root, children := [] })
    ∧ ∀ k, k < 3 ∨ 259 ≤ k → x.nodeAt k = { character := 0, parent := .free, children := [] }

/-! ### Unit L: arithmetic, supervisory and unnumbered frames -/

/-- R120, R121, R122: the modulo-128 functions; the comparator is symmetric exactly at distances 0 and 64. -/
def Obligations.Mod128Arithmetic : Prop :=
  ∀ a b : SeqNum,
    (incMod128 a).toNat = (a.toNat + 1) % 128 ∧ (decMod128 a).toNat = (a.toNat + 127) % 128
    ∧ (lteMod128 a b = true ↔ (b.toNat + 128 - a.toNat) % 128 ≤ 64)
    ∧ (lteMod128 a b = true ∧ lteMod128 b a = true ↔
        (b.toNat + 128 - a.toNat) % 128 = 0 ∨ (b.toNat + 128 - a.toNat) % 128 = 64)

/-- R125, R134, R135: RR and RNR take the acknowledgement and do nothing else. -/
def Obligations.RrRnrAcknowledge : Prop :=
  ∀ (s : State) (addr : Octet) (nr : SeqNum) (pf : Bool) (now : Nat),
    s.pumpsOpen → s.handlesFrames → s.cfg.wf = true → Cells.sorted s.l.sentIFrames = true →
    ∀ i ∈ [Instr.rr addr nr pf now, Instr.rnr addr nr pf now],
      ∃ t, exec i s = .next t
        ∧ t = { s with
            l := { s.l with txSeqAck := s.l.ackAfter nr, sentIFrames := t.l.sentIFrames }
            trace := s.trace ++ s.l.ackEvents nr, result := .none }
        ∧ ∀ q : SeqNum, Cells.lookup t.l.sentIFrames q.toNat = s.l.sentAfter nr q

/-- R136: REJ takes the acknowledgement and sends again, in order, every stored frame from N(R) on, with the current N(R). An
N(R) that is not accepted sends nothing again (D18; that this holds where it is V(A), too, is the model's reading, log 21). -/
def Obligations.RejGoesBack : Prop :=
  ∀ (s : State) (addr : Octet) (nr : SeqNum) (pf : Bool) (now : Nat),
    s.pumpsOpen → s.handlesFrames → s.cfg.wf = true → Cells.sorted s.l.sentIFrames = true → s.h.inv →
    ∃ t, exec (.rej addr nr pf now) s = .next t
      ∧ s.h.queued t.h (framesLine (s.l.resent nr))
      ∧ t = { s with
          h := t.h
          l := { s.l with
            txSeqAck := s.l.ackAfter nr, sentIFrames := t.l.sentIFrames
            inactStart := if s.l.resent nr = [] then s.l.inactStart else now }
          trace := s.trace ++ s.l.ackEvents nr, result := .none }
      ∧ ∀ q : SeqNum, Cells.lookup t.l.sentIFrames q.toNat =
          if s.l.accepts nr ∧ (q - nr).toNat < (s.l.txSeqNum - nr).toNat
          then (s.l.sentAfter nr q).map s.l.renumbered
          else s.l.sentAfter nr q

/-- R140, R142: SREJ, other S codes, a received UA and other U codes are dropped with UNKNOWN_CMD. -/
def Obligations.UnknownCommandsDropped : Prop :=
  ∀ (s : State) (addr code : Octet) (nr : SeqNum) (pf : Bool) (now : Nat),
    s.pumpsOpen → s.handlesFrames → s.cfg.wf = true →
    ∀ i ∈ [Instr.srej addr nr pf now, Instr.sOther addr code nr pf now, Instr.ua addr pf now,
        Instr.uOther addr code pf now],
      wellFormed s.cfg i = true →
      exec i s = .next { s with trace := s.trace ++ [.unknownCmd], result := .none }

/-- R137, R138: SABME and DISC are answered with UA. SABME clears the counters and the stored frames, and L is Connected; DISC
leaves L in Release. -/
def Obligations.SabmeAndDiscAnswered : Prop :=
  ∀ (s : State) (addr : Octet) (pf : Bool) (now : Nat),
    s.pumpsOpen → s.handlesFrames → s.cfg.wf = true → s.h.inv →
    let ua := frameBits (withFcs [addr, s.cfg.ctlUa ||| (if pf then 0x10 else 0)])
    (∃ t, exec (.sabme addr pf now) s = .next t ∧ s.h.queued t.h ua
      ∧ t = { s with
          h := t.h
          l := { s.l with
            txSeqNum := 0, rxSeqNum := 0, txSeqAck := 0, sentIFrames := [], phase := .connected, inactStart := now }
          result := .none })
    ∧ ∃ t, exec (.disc addr pf now) s = .next t ∧ s.h.queued t.h ua
        ∧ t = { s with h := t.h, l := { s.l with phase := .release, inactStart := now }, result := .none }

/-! ### Unit L: information frames -/

/-- R133, payload not compressed: an I-frame with the expected N(S) is delivered to the sink and answered with RR, unless the
acknowledgement can be piggybacked. -/
def Obligations.InSequenceDelivered : Prop :=
  ∀ (s : State) (addr : Octet) (nr : SeqNum) (p : Bool) (info : List Octet) (now : Nat),
    s.pumpsOpen → s.handlesFrames → s.cfg.wf = true → Cells.sorted s.l.sentIFrames = true → s.h.inv →
    s.cfg.compEnabled = false →
    let reply : List (List Octet) :=
      if p || !s.piggybacks (s.l.ackAfter nr) then [[addr, s.cfg.ctlRr, seqOctet (s.l.rxSeqNum + 1) p]] else []
    ∃ t, exec (.iFrame addr s.l.rxSeqNum nr p info now) s = .next t
      ∧ s.h.queued t.h (framesLine reply)
      ∧ t = { s with
          h := t.h
          l := { s.l with
            txSeqAck := s.l.ackAfter nr, sentIFrames := t.l.sentIFrames, rxSeqNum := s.l.rxSeqNum + 1
            inactStart := if reply = [] then s.l.inactStart else now }
          sink := s.sink ++ info, trace := s.trace ++ s.l.ackEvents nr, result := .none }
      ∧ ∀ q : SeqNum, Cells.lookup t.l.sentIFrames q.toNat = s.l.sentAfter nr q

/-- R133: an I-frame with another N(S) is answered with REJ naming the expected one and discarded; its acknowledgement is
taken. -/
def Obligations.OutOfSequenceRejected : Prop :=
  ∀ (s : State) (addr : Octet) (ns nr : SeqNum) (p : Bool) (info : List Octet) (now : Nat),
    s.pumpsOpen → s.handlesFrames → s.cfg.wf = true → Cells.sorted s.l.sentIFrames = true → s.h.inv →
    ns ≠ s.l.rxSeqNum →
    ∃ t, exec (.iFrame addr ns nr p info now) s = .next t
      ∧ s.h.queued t.h (framesLine [[addr, s.cfg.ctlRej, seqOctet s.l.rxSeqNum p]])
      ∧ t = { s with
          h := t.h
          l := { s.l with txSeqAck := s.l.ackAfter nr, sentIFrames := t.l.sentIFrames, inactStart := now }
          trace := s.trace ++ s.l.ackEvents nr, result := .none }
      ∧ ∀ q : SeqNum, Cells.lookup t.l.sentIFrames q.toNat = s.l.sentAfter nr q

/-- R150, R133: with compression the information octets go through D.WRITE. Without a fault the sink gets all that D puts
out, and the answer is as without compression. At a fault the operation ends: V(R) has advanced, no answer is sent, and what
the information octets before the one that faults gave is delivered. -/
def Obligations.CompressedDelivery : Prop :=
  ∀ (s : State) (addr : Octet) (nr : SeqNum) (p : Bool) (info : List Octet) (now : Nat),
    s.pumpsOpen → s.handlesFrames → s.takesStream → s.cfg.wf = true → Cells.sorted s.l.sentIFrames = true → s.h.inv →
    s.cfg.compEnabled = true → s.d.out = [] →
    let reply : List (List Octet) :=
      if p || !s.piggybacks (s.l.ackAfter nr) then [[addr, s.cfg.ctlRr, seqOctet (s.l.rxSeqNum + 1) p]] else []
    ∃ t u rs, exec (.iFrame addr s.l.rxSeqNum nr p info now) s = .next t
      ∧ execAll (info.map .dWrite) s = some (u, rs)
      ∧ (u.d.fault = none →
          s.h.queued t.h (framesLine reply)
          ∧ t = { s with
              h := t.h
              l := { s.l with
                txSeqAck := s.l.ackAfter nr, sentIFrames := t.l.sentIFrames, rxSeqNum := s.l.rxSeqNum + 1
                inactStart := if reply = [] then s.l.inactStart else now }
              d := { u.d with out := [] }
              sink := s.sink ++ u.d.out, trace := s.trace ++ s.l.ackEvents nr, result := .none })
      ∧ (∀ e, u.d.fault = some e →
          ∃ done x rest w qs v, info = done ++ x :: rest
            ∧ execAll (done.map .dWrite) s = some (w, qs) ∧ w.d.fault = none
            ∧ exec (.dWrite x) w = .next v ∧ v.d.fault = some e
            ∧ t = { s with
                l := { s.l with
                  txSeqAck := s.l.ackAfter nr, sentIFrames := t.l.sentIFrames, rxSeqNum := s.l.rxSeqNum + 1
                  fault := some e }
                d := { v.d with out := v.d.out.drop w.d.out.length }
                sink := s.sink ++ w.d.out, trace := s.trace ++ s.l.ackEvents nr, result := .fault e })
      ∧ ∀ q : SeqNum, Cells.lookup t.l.sentIFrames q.toNat = s.l.sentAfter nr q

/-! ### Unit L: XID -/

/-- R145 to R147: an XID frame whose information field is made of groups that fit is learned from and answered with the same
groups, the compression request's value zeroed. One whose field is made in no such way is malformed: it changes nothing and
gets no response (that an unknown group in a malformed field is not logged is the model's choice, log 20). -/
def Obligations.XidLearnedAndEchoed : Prop :=
  ∀ (s : State) (addr : Octet) (pf : Bool) (info : List Octet) (now : Nat),
    s.pumpsOpen → s.handlesFrames → s.cfg.wf = true → s.h.inv →
    (∀ gs : List XidGroup, (∀ g ∈ gs, g.fits = true) → info = Config.xidFi :: gs.flatMap XidGroup.octets →
      ∃ t, exec (.xid addr pf info now) s = .next t ∧ s.afterXid addr pf gs now t)
    ∧ ((∀ gs : List XidGroup, (∀ g ∈ gs, g.fits = true) → info ≠ Config.xidFi :: gs.flatMap XidGroup.octets) →
        exec (.xid addr pf info now) s = .next { s with trace := s.trace ++ [.xidMalformed], result := .none })

/-- R60, R145 to R147: what each item of an XID information field does in the smallest XID frame that holds it (the frame is
the model's choice, log 12). A public or private group whose content is no sequence of parameters is malformed. -/
def Obligations.XidItemsEffect : Prop :=
  ∀ (s : State) (addr : Octet) (pf : Bool) (content pv : List Octet) (ps : List XidParam) (now : Nat),
    s.pumpsOpen → s.handlesFrames → s.cfg.wf = true → s.h.inv → content.length < 65536 → pv.length < 256 →
    (XidGroup.params Config.xidGidPublic ps).fits = true →
    (∃ t, exec (.xidFi addr pf now) s = .next t ∧ s.afterXid addr pf [] now t)
    ∧ (∃ t, exec (.xidGroupPublic addr pf (ps.flatMap fun x => xidParamOctets x.pi x.pv) now) s = .next t
        ∧ s.afterXid addr pf [.params Config.xidGidPublic ps] now t)
    ∧ (∃ t, exec (.xidGroupPrivate addr pf (ps.flatMap fun x => xidParamOctets x.pi x.pv) now) s = .next t
        ∧ s.afterXid addr pf [.params Config.xidGidPrivate ps] now t)
    ∧ ((∀ qs : List XidParam, (XidGroup.params Config.xidGidPublic qs).fits = true →
          content ≠ qs.flatMap fun x => xidParamOctets x.pi x.pv) →
        ∀ i ∈ [Instr.xidGroupPublic addr pf content now, Instr.xidGroupPrivate addr pf content now],
          exec i s = .next { s with trace := s.trace ++ [.xidMalformed], result := .none })
    ∧ (∃ t, exec (.xidGroupUserdata addr pf content now) s = .next t
        ∧ s.afterXid addr pf [.skipped Config.xidGidUser content] now t)
    ∧ (∃ t, exec (.xidParamTxsize addr pf pv now) s = .next t
        ∧ s.afterXid addr pf [.params Config.xidGidPublic [⟨s.cfg.xidPidTxsize, pv⟩]] now t
        ∧ t.l.txMaxSize = natOfOctetsBE pv / s.cfg.xidLenDiv)
    ∧ (∃ t, exec (.xidParamWindow addr pf pv now) s = .next t
        ∧ s.afterXid addr pf [.params Config.xidGidPublic [⟨s.cfg.xidPidWindow, pv⟩]] now t
        ∧ t.l.txWindow = natOfOctetsBE pv)
    ∧ (∃ t, exec (.xidParamCompreq addr pf pv now) s = .next t
        ∧ s.h.queued t.h
            (frameBits (withFcs
              (addr :: uOctet s.cfg.ctlXid pf :: Config.xidFi
                :: xidGroupOctets Config.xidGidPrivate
                    (xidParamOctets s.cfg.xidPidCompreq (List.replicate pv.length 0)))))
        ∧ t = { s with h := t.h, l := { s.l with inactStart := now }, result := .none })

/-! ### Unit L: the line -/

/-- R126, R31: a pattern on the line is its bits given to L.RXBIT one after another, all at one time, until a fault (the
pattern as one instruction is the model's choice, logs 9 and 10). -/
def Obligations.PatternsAreBits : Prop :=
  ∀ (s : State) (i : Instr) (bits : List Bool) (now : Nat),
    s.pumpsOpen → encode s.cfg i = .line bits now →
    ∃ u rs, execAll (bits.map fun b => .lRxbit b now) s = some (u, rs)
      ∧ exec i s = .next { u with
          result := match u.l.fault with
            | some e => .fault e
            | none => .none }

/-- R126, R129, R130, R132, R151: in Establish and Connected, right behind a flag, a frame with a good FCS on the line has the
effect of its control field's instruction, whatever octets follow the control field. In Detection after ADP any such
instruction is the flag waited for; at the timer's expiry it finds L in V14; where bits do not go to H it does nothing (both
rows as what arrives, and so these effects of a frame's row, are the model's choice, logs 9 and 11). -/
def Obligations.FrameOnLineIsHandled : Prop :=
  ∀ (s : State) (i : Instr) (octets : List Octet) (now : Nat),
    s.pumpsOpen →
    (s.handlesFrames → s.cfg.wf = true → s.h.rxOnes = 0 → s.h.rxCur = 0 → s.h.rxCnt = 0 → s.h.rxFrame = [] →
      decode s.cfg (.frame octets now) = .ok i →
      ∃ t, exec (.frame (withFcs octets) now) s = .next t ∧ exec i s = .next t)
    ∧ (frameTime i = some now →
        (s.l.phase = .detection → now < s.l.detStart + 750 → s.l.adpSent = true →
          exec i s = .next { s with
            l := { s.l with phase := .establish, inactStart := now, txBitPos := 0 }, result := .none })
        ∧ (s.l.phase = .detection → s.l.detStart + 750 ≤ now →
          exec i s = .next { s with l := { s.l with phase := .v14 }, result := .none })
        ∧ (s.l.phase = .v14 ∨ s.l.phase = .release
            ∨ (s.l.adpSent = false ∧ (s.l.phase = .none ∨ (s.l.phase = .detection ∧ now < s.l.detStart + 750))) →
          exec i s = .next { s with result := .none }))

/-- R132, R234: on the line (log 9) fewer than four octets between flags are dropped without an event; a frame with a bad FCS
gives BAD_CRC, an I or S frame of four octets SHORT_FRAME, and nothing else changes. (Fewer than four octets are no row FRAME,
R54; what is stated of them is stated of their line bits, by PatternsAreBits.) -/
def Obligations.BadFramesDropped : Prop :=
  ∀ (s : State) (f : List Octet) (now : Nat),
    s.pumpsOpen → s.handlesFrames → s.h.rxOnes = 0 → s.h.rxCur = 0 → s.h.rxCnt = 0 → s.h.rxFrame = [] →
    (f.length < 4 → exec (.frame f now) s = .next { s with result := .none })
    ∧ (4 ≤ f.length → checkFcs f = false →
      exec (.frame f now) s = .next { s with trace := s.trace ++ [.badCrc], result := .none })
    ∧ (checkFcs f = true → f.length = 4 → ((f.getD 1 0).getLsbD 0 && (f.getD 1 0).getLsbD 1) = false →
      exec (.frame f now) s = .next { s with trace := s.trace ++ [.shortFrame], result := .none })

/-- R105, R126, R129, R130, R132, R151: before the detection timer expires and after ADP a flag moves L to Establish. In Establish
and Connected a flag behind fewer than four octets drops them without an event, so that right behind a flag it changes
nothing. Seven or more 1s drop the frame in progress; in Establish and Connected the abort is logged once, and not again while
the 1s go on; in Detection it is not logged. In Release neither does anything (the pattern as one instruction: log 9). -/
def Obligations.FlagAndAbortOnLine : Prop :=
  ∀ (s : State) (ones now : Nat),
    s.pumpsOpen → 7 ≤ ones →
    let waits : Prop := s.l.phase = .detection ∧ s.l.adpSent = true ∧ now < s.l.detStart + 750
    (waits →
      exec (.flag now) s = .next { s with
        h := { s.h with rxOnes := 0, rxCur := 0, rxCnt := 0, rxFrame := [] }
        l := { s.l with phase := .establish, inactStart := now, txBitPos := 0 }
        result := .none })
    ∧ (s.handlesFrames → s.h.rxOnes ≠ 5 → s.h.rxOnes ≠ 6 → s.h.rxCnt = 0 → s.h.rxFrame.length < 4 →
        exec (.flag now) s = .next { s with
          h := { s.h with rxOnes := 0, rxCur := 0, rxCnt := 0, rxFrame := [] }, result := .none })
    ∧ (s.l.phase = .release →
        exec (.flag now) s = .next { s with result := .none }
        ∧ exec (.abort ones now) s = .next { s with result := .none })
    ∧ (s.handlesFrames ∨ waits →
        exec (.abort ones now) s = .next (
          if s.h.rxOnes = 7 then { s with result := .none }
          else
            { s with
              h := { s.h with rxOnes := 7, rxCur := 0, rxCnt := 0, rxFrame := [] }
              trace := s.trace ++ if s.l.phase = .detection then [] else [.abort]
              result := .none }))

/-- R127, R131, R53, R84: in phase V14 every character on the line goes to the sink unchanged, DC1 included. In phase None the
first character decides: DC1 starts detection and its timer, any other is delivered in phase V14 (log 9). The two characters of
ADP are such characters (log 10). -/
def Obligations.CharactersOutsideDetection : Prop :=
  ∀ (s : State) (d : Octet) (parity : Bool) (stops now : Nat),
    s.pumpsOpen → s.v.rxState = .idle → s.v.inv → 1 ≤ stops →
    let received (c : Octet) : State :=
      { s with
        v := { s.v with
          rxCurByte := c, rxBitCount := 8, rxStopBits := stops
          missGap := BitVec.ofNat 3 (min (s.v.missGap.toNat + 1) 5) }
        result := .none }
    let passed (c : Octet) : State :=
      { received c with
        v := { (received c).v with maxStopBits := max s.v.maxStopBits stops }
        sink := s.sink ++ [c] }
    let first (c : Octet) : State :=
      { received c with
        v := { (received c).v with maxStopBits := stops }
        l := if c = 0x11 ∨ c = 0x91
          then { s.l with phase := .detection, detStart := now, odpCount := 1, lastOdp := some c }
          else { s.l with phase := .v14 }
        sink := if c = 0x11 ∨ c = 0x91 then s.sink else s.sink ++ [c] }
    let both (most : Nat) : State :=
      { s with
        v := { s.v with
          rxCurByte := 0x43, rxBitCount := 8, rxStopBits := 9, maxStopBits := most
          missGap := BitVec.ofNat 3 (min (s.v.missGap.toNat + 2) 5) }
        l := { s.l with phase := .v14 }
        sink := s.sink ++ [0x45, 0x43], result := .none }
    let dc1 : Octet := if parity then 0x91 else 0x11
    (s.l.phase = .v14 →
      exec (.v14Char d stops now) s = .next (passed d) ∧ exec (.odp parity stops now) s = .next (passed dc1)
      ∧ exec (.adp now) s = .next (both (max s.v.maxStopBits 9)))
    ∧ (s.l.phase = .none → s.l.adpSent = false →
        exec (.v14Char d stops now) s = .next (first d) ∧ exec (.odp parity stops now) s = .next (first dc1)
        ∧ exec (.adp now) s = .next (both 9))

/-- R127: in Detection a character counts repetitions, given the run of 1s before it: the next repetition, a new first one,
or none; no character reaches the sink (log 9). The two characters of ADP end the count (log 10). -/
def Obligations.DetectionCounts : Prop :=
  ∀ (s : State) (d : Octet) (stops now : Nat),
    s.pumpsOpen → s.l.phase = .detection → s.l.adpSent = false → s.v.rxState = .idle → s.v.inv → 1 ≤ stops →
    now < s.l.detStart + 750 →
    let dc1 := d = 0x11 ∨ d = 0x91
    let next := dc1 ∧ 1 ≤ s.l.odpCount.toNat ∧ s.l.lastOdp ≠ some d ∧ (s.v.maxStopBits = 9 ∨ s.v.maxStopBits = 17)
    (¬ (next ∧ s.l.odpCount = 3) →
      ∀ i, encode s.cfg i = .line (charBits d stops) now →
        exec i s = .next { s with
          v := { s.v with
            rxCurByte := d, rxBitCount := 8, rxStopBits := stops, maxStopBits := stops
            missGap := BitVec.ofNat 3 (min (s.v.missGap.toNat + 1) 5) }
          l := { s.l with
            odpCount := if next then s.l.odpCount + 1 else if dc1 then 1 else 0
            lastOdp := if dc1 then some d else none }
          result := .none })
    ∧ exec (.adp now) s = .next { s with
        v := { s.v with
          rxCurByte := 0x43, rxBitCount := 8, rxStopBits := 9, maxStopBits := 9
          missGap := BitVec.ofNat 3 (min (s.v.missGap.toNat + 2) 5) }
        l := { s.l with odpCount := 0, lastOdp := none }
        result := .none }

/-- R127, R128: four DC1 characters of alternating parity, each framed with 9 or 17 stop bits and before the timer expires,
make an idle L queue ADP: `E` and `C`, each with nine stop bits (log 9). -/
def Obligations.FourOdpsAnswered : Prop :=
  ∀ (s : State) (parity : Bool) (n1 n2 n3 n4 t1 t2 t3 t4 : Nat),
    s.pumpsOpen → s.l.phase = .none → s.l.adpSent = false → s.v.rxState = .idle → s.v.inv →
    (∀ n ∈ [n1, n2, n3, n4], n = 9 ∨ n = 17) → (∀ t ∈ [t2, t3, t4], t < t1 + 750) →
    ∃ t rs,
      execAll [.odp parity n1 t1, .odp (!parity) n2 t2, .odp parity n3 t3, .odp (!parity) n4 t4] s = some (t, rs)
      ∧ t.l = { s.l with
          phase := .detection, detStart := t1, odpCount := 4
          lastOdp := some (if parity then 0x11 else 0x91), adpSent := true }
      ∧ t.v.lineBits = s.v.lineBits ++ (charBits 0x45 9 ++ charBits 0x43 9) ∧ t.v.txStopBits = 9
      ∧ t.sink = s.sink ∧ t.trace = s.trace

/-- R127, R128, R129: the character that is the fourth repetition queues `E` and `C`, each with nine stop bits, and marks ADP as
sent, at its last data bit; nine stop bits stay set (R274), and its own stop bits go to H, where an abort is not logged (the
character as one instruction: log 9). -/
def Obligations.AdpQueuesAnswer : Prop :=
  ∀ (s : State) (i : Instr) (d : Octet) (stops now : Nat),
    s.pumpsOpen → s.written.h = true → s.l.phase = .detection → s.l.adpSent = false → now < s.l.detStart + 750 →
    s.v.rxState = .idle → s.v.inv → 1 ≤ stops → d = 0x11 ∨ d = 0x91 → s.l.odpCount = 3 → s.l.lastOdp ≠ some d →
    s.v.maxStopBits = 9 ∨ s.v.maxStopBits = 17 → encode s.cfg i = .line (charBits d stops) now →
    ∃ t u rs, exec i s = .next t ∧ execAll (List.replicate stops (.hRxbit true)) s = some (u, rs)
      ∧ { s.v with
          rxState := .stopBit, rxCurByte := d, rxBitCount := 8, rxStopBits := 0, maxStopBits := 0
          missGap := BitVec.ofNat 3 (min (s.v.missGap.toNat + 1) 5), txStopBits := 9 }.queued t.v
          (charBits 0x45 9 ++ charBits 0x43 9)
      ∧ t = { s with
          v := t.v, h := u.h
          l := { s.l with odpCount := 4, lastOdp := some d, adpSent := true }
          result := .none }

/-- R130, R238: at 750 units or more a pump first falls back to V14, whatever else it does; before that the timer has no
effect on the phase. -/
def Obligations.DetectionTimerFallsBack : Prop :=
  ∀ (s : State) (b : Bool) (now : Nat), s.pumpsOpen → s.l.phase = .detection →
    ∀ i ∈ [Instr.lRxbit b now, Instr.lTxbit now],
      (s.l.detStart + 750 ≤ now → exec i s = exec i { s with l := { s.l with phase := .v14 } })
      ∧ ∃ t, exec i s = .next t ∧ (t.l.phase = .v14 ↔ s.l.detStart + 750 ≤ now)

/-- R126, R127, R129, by the operations of V and H: where the bit goes in each phase and what becomes of the answer. In None and
Detection before ADP a bit that completes a character takes the run of 1s before it: the first character decides the phase,
a later one counts repetitions, and the fourth queues ADP. -/
def Obligations.LRxbitByPhase : Prop :=
  ∀ (s : State) (b : Bool) (now : Nat),
    s.pumpsOpen → s.written.v = true → s.written.h = true → (s.l.phase = .detection → now < s.l.detStart + 750) →
    ∃ t uv uh, exec (.lRxbit b now) s = .next t ∧ exec (.v14Rxbit b) s = .next uv ∧ exec (.hRxbit b) s = .next uh
      ∧ (s.l.phase = .v14 → t = { uv with sink := uv.sink ++ uv.result.octets, result := .none })
      ∧ (s.l.phase = .release → t = { s with result := .none })
      ∧ (s.handlesFrames →
          (∀ f, uh.result = .frame f → t = { (uh.handleFrame f now) with result := t.result })
          ∧ ((∀ f, uh.result ≠ .frame f) → t = { uh with result := .none }))
      ∧ (s.l.phase = .none ∨ s.l.phase = .detection →
          (s.l.adpSent = true →
            (∀ f, uh.result = .frame f →
              t = { uh with
                l := { uh.l with phase := .establish, inactStart := now, txBitPos := 0 }, result := .none })
            ∧ ((∀ f, uh.result ≠ .frame f) → t = { uh with trace := s.trace, result := .none }))
          ∧ (s.l.adpSent = false →
              (uv.result = .none → t = uv)
              ∧ ∀ c, uv.result = .octet c →
                let v := { uv.v with maxStopBits := 0 }
                let dc1 := c = 0x11 ∨ c = 0x91
                let next := dc1 ∧ 1 ≤ s.l.odpCount.toNat ∧ s.l.lastOdp ≠ some c
                  ∧ (uv.v.maxStopBits = 9 ∨ uv.v.maxStopBits = 17)
                (s.l.phase = .none →
                  t = { uv with
                    v := v
                    l := if dc1
                      then { s.l with phase := .detection, detStart := now, odpCount := 1, lastOdp := some c }
                      else { s.l with phase := .v14 }
                    sink := if dc1 then s.sink else s.sink ++ [c]
                    result := .none })
                ∧ (s.l.phase = .detection → ¬ (next ∧ s.l.odpCount = 3) →
                  t = { uv with
                    v := v
                    l := { s.l with
                      odpCount := if next then s.l.odpCount + 1 else if dc1 then 1 else 0
                      lastOdp := if dc1 then some c else none }
                    result := .none })
                ∧ (s.l.phase = .detection → next ∧ s.l.odpCount = 3 → s.v.inv →
                  { v with txStopBits := 9 }.queued t.v (charBits 0x45 9 ++ charBits 0x43 9)
                  ∧ t = { uv with
                    v := t.v, l := { s.l with odpCount := 4, lastOdp := some c, adpSent := true }, result := .none })))

/-! ### Unit L: sending -/

/-- R144, R149: in None, Detection and V14 the next bit comes from V's queue, which is filled when it is empty: with a source
octet as a character in V14, else with 1s. The bit and those that still wait are the bits that waited. -/
def Obligations.TxbitFromV : Prop :=
  ∀ (s : State) (now : Nat),
    s.pumpsOpen → s.v.inv → (s.l.phase = .none ∨ s.l.phase = .detection ∨ s.l.phase = .v14) →
    (s.l.phase = .detection → now < s.l.detStart + 750) →
    let sends : Bool := decide (s.v.txQueue = []) && decide (s.l.phase = .v14) && decide (s.source ≠ [])
    let fill : List Bool :=
      if s.v.txQueue ≠ [] then []
      else if sends then charBits (s.source.headD 0) s.v.txStopBits
      else List.replicate (8 - s.v.txBitCount.toNat) true
    ∃ t b, exec (.lTxbit now) s = .next t
      ∧ b :: t.waitingV = (s.v.lineBits ++ fill).drop s.l.txBitPos.toNat ∧ t.v.inv
      ∧ t = { s with
          v := { s.v with txQueue := t.v.txQueue, txCurByte := t.v.txCurByte, txBitCount := t.v.txBitCount }
          l := { s.l with txBitPos := s.l.txBitPos + 1 }
          source := if sends then s.source.tail else s.source
          result := .bit b }

/-- R144, R148, R149, when no I-frame is to be sent: in Establish and Connected the next bit comes from H's queue, which is
filled when it is empty, with the keepalive RR once 1000 units have passed, else with a flag. -/
def Obligations.TxbitFromH : Prop :=
  ∀ (s : State) (now : Nat),
    s.pumpsOpen → s.h.inv → s.handlesFrames → (s.h.txBuffer = [] → s.piggybacks s.l.txSeqAck = false) →
    let keepalive : Bool := decide (s.h.txBuffer = []) && decide (s.l.inactStart + 1000 ≤ now)
    let fill : List Bool :=
      if s.h.txBuffer ≠ [] then []
      else if keepalive then frameBits (withFcs [s.cfg.addrCmd, s.cfg.ctlRr, seqOctet s.l.rxSeqNum s.cfg.keepaliveP])
      else flagBits
    ∃ t b, exec (.lTxbit now) s = .next t
      ∧ b :: t.waitingH = (s.h.lineBits ++ fill).drop s.l.txBitPos.toNat ∧ t.h.inv
      ∧ t = { s with
          h := { s.h with
            txBuffer := t.h.txBuffer, txCur := t.h.txCur, txCnt := t.h.txCnt
            txOnes := if fill = [] then s.h.txOnes else 0 }
          l := { s.l with
            txBitPos := s.l.txBitPos + 1, inactStart := if keepalive then now else s.l.inactStart }
          result := .bit b }

/-- R143, R144, R150: with H's queue empty, Connected, the window open and octets in the source, an I-frame of as many octets
as are there and allowed is sent and stored; with compression its information is what C puts out for them. -/
def Obligations.TxbitSendsIFrame : Prop :=
  ∀ (s : State) (now : Nat),
    s.pumpsOpen → s.h.inv → s.written.c = true → s.h.txBuffer = [] → s.piggybacks s.l.txSeqAck = true →
    let k := min s.source.length s.l.txMaxSize
    ∃ t b u rs payload, exec (.lTxbit now) s = .next t
      ∧ execAll ((s.source.take k).map .cWrite ++ [.cFlush]) s = some (u, rs)
      ∧ (s.cfg.compEnabled = false → payload = s.source.take k ∧ t.c = s.c)
      ∧ (s.cfg.compEnabled = true → payload = u.c.out ∧ t.c = { u.c with out := [] })
      ∧ (let fr := s.cfg.addrCmd :: seqOctet s.l.txSeqNum false :: seqOctet s.l.rxSeqNum false :: payload
        b :: t.waitingH = (s.h.lineBits ++ frameBits (withFcs fr)).drop s.l.txBitPos.toNat ∧ t.h.inv
        ∧ Cells.lookup t.l.sentIFrames s.l.txSeqNum.toNat = some fr
        ∧ (∀ q, q ≠ s.l.txSeqNum.toNat → Cells.lookup t.l.sentIFrames q = Cells.lookup s.l.sentIFrames q)
        ∧ t = { s with
            h := { s.h with txBuffer := t.h.txBuffer, txCur := t.h.txCur, txCnt := t.h.txCnt, txOnes := 0 }
            l := { s.l with
              txSeqNum := s.l.txSeqNum + 1, sentIFrames := t.l.sentIFrames, inactStart := now
              txBitPos := s.l.txBitPos + 1 }
            c := t.c
            source := s.source.drop k
            result := .bit b })

/-- R144, R151: in Release the queued bits are drained, the last octet is completed with 1s, and then the line idles at 1. -/
def Obligations.ReleaseDrains : Prop :=
  ∀ (s : State) (now : Nat), s.pumpsOpen → s.h.inv → s.l.phase = .release →
    (s.h.txBuffer = [] ∧ s.h.txCnt = 0 → exec (.lTxbit now) s = .next { s with result := .bit true })
    ∧ (s.h.txBuffer ≠ [] ∨ s.h.txCnt ≠ 0 →
        ∃ t b, exec (.lTxbit now) s = .next t
          ∧ b :: t.waitingH
              = (s.h.lineBits ++ if s.h.txBuffer = [] then List.replicate (8 - s.h.txCnt.toNat) true else []).drop
                  s.l.txBitPos.toNat
          ∧ t.h.inv
          ∧ t = { s with
              h := { s.h with txBuffer := t.h.txBuffer, txCur := t.h.txCur, txCnt := t.h.txCnt }
              l := { s.l with txBitPos := s.l.txBitPos + 1 }
              result := .bit b })

/-! ### Units C and D -/

/-- R172, R176, R174, R175: the string of a node is its parent's and its own byte. What a character does to the dictionary
and the match: it extends the match; or it ends it, entering the new string at the next slot where it is new and short
enough, and starts again at the character's root. The slot of the next entry is then the first leaf of the dictionary with the
new node, counting up from the slot just used and from the last slot on to 259: a free one is taken as it is; one in use is
detached from its parent. (The node list in canonical form is the model's, log 15.) -/
def Obligations.DictionaryMatches : Prop :=
  ∀ (p : Params) (x : V42Base) (c : Octet), p.wf = true → x.nodesWf = true → x.inv p →
    let y := (x.acceptChar p c).1
    let ended := (x.acceptChar p c).2
    let slot (j : Nat) : Nat := 259 + (x.nextCodeWord - 259 + j) % (p.maxCodeWords - 259)
    (∀ b : Octet, x.stringOf p (3 + b.toNat) = [b])
    ∧ (∀ k q, (x.nodeAt k).parent = .node q → x.stringOf p k = x.stringOf p q ++ [(x.nodeAt k).character])
    ∧ (x.codeWordSize, x.codeWordThreshold, x.escapeCode, x.transparent)
      = (y.codeWordSize, y.codeWordThreshold, y.escapeCode, y.transparent)
    ∧ (x.curCode = none →
        y = { x with modeTransition := false, curCode := some (3 + c.toNat), matchLen := 1 } ∧ ended = none)
    ∧ ∀ i, x.curCode = some i →
        (∀ ch, x.modeTransition = false → x.childAt i c = some ch → x.lastAdded ≠ some ch →
          y = { x with curCode := some ch, matchLen := x.matchLen + 1 } ∧ ended = none)
        ∧ ((x.modeTransition = true ∨ x.childAt i c = none ∨ x.childAt i c = x.lastAdded) →
            (y.modeTransition, y.curCode, y.matchLen) = (false, some (3 + c.toNat), 1)
            ∧ ended = (if x.modeTransition then none else some (i, x.matchLen))
            ∧ (x.childAt i c = none → x.matchLen + 1 ≤ p.maxStringLength →
                y.lastAdded = some x.nextCodeWord
                ∧ (y.nodeAt x.nextCodeWord).character = c ∧ (y.nodeAt x.nextCodeWord).parent = .node i
                ∧ y.isFree y.nextCodeWord = true ∧ y.nextCodeWord ≠ x.nextCodeWord
                ∧ ∀ k, k ≠ x.nextCodeWord → k ≠ y.nextCodeWord →
                    (y.nodeAt k).parent = (x.nodeAt k).parent ∧ (y.nodeAt k).character = (x.nodeAt k).character)
            ∧ (x.childAt i c = none → x.matchLen + 1 ≤ p.maxStringLength →
                let z := x.addChild i c x.nextCodeWord
                ∃ k, 1 ≤ k ∧ y.nextCodeWord = slot k ∧ z.isLeaf (slot k) = true
                  ∧ (∀ j, 1 ≤ j → j < k → z.isLeaf (slot j) = false)
                  ∧ (z.isFree (slot k) = true → y.node = z.node)
                  ∧ ∀ q, (z.nodeAt (slot k)).parent = .node q → ∀ m,
                      y.nodeAt m =
                        if m = slot k then { z.nodeAt m with parent := .free }
                        else if m = q then
                          { z.nodeAt m with
                            children := Cells.erase (z.nodeAt m).children (z.nodeAt (slot k)).character.toNat }
                        else z.nodeAt m)
            ∧ (x.childAt i c ≠ none ∨ p.maxStringLength < x.matchLen + 1 →
                y.lastAdded = none ∧ y.node = x.node ∧ y.nextCodeWord = x.nextCodeWord))

/-- R195, R194, in transparent mode when no mode test falls due: the octet goes out raw, with EID behind it on a collision,
which rolls the escape code by 51; the dictionary accepts it. -/
def Obligations.CWriteTransparent : Prop :=
  ∀ (s : State) (b : Octet),
    s.written.c = true → s.c.base.transparent = true → 2 ≤ s.c.testCount →
    let esc := if b = s.c.base.escapeCode then s.c.base.escapeCode + 51 else s.c.base.escapeCode
    let r := { s.c.base with escapeCode := esc }.acceptChar s.cfg b
    exec (.cWrite b) s = .next { s with
      c := { s.c with
        base := r.1
        compressTest := s.c.compressTest
          + match r.2 with
            | some (_, len) => 8 * (len : Int) - (s.c.base.codeWordSize : Int)
            | none => 0
        testCount := s.c.testCount - 1
        out := s.c.out ++ b :: (if b = s.c.base.escapeCode then [s.cfg.eid] else []) }
      result := .none }

/-- R195, R194, R193, R191, in compressed mode when no mode test falls due: at a match end the codeword goes out behind the
STEPUPs that it needs; otherwise nothing is put out. -/
def Obligations.CWriteCompressed : Prop :=
  ∀ (s : State) (b : Octet),
    s.written.c = true → s.cfg.wf = true → s.c.inv s.cfg → s.c.base.transparent = false → 2 ≤ s.c.testCount →
    let esc := if b = s.c.base.escapeCode then s.c.base.escapeCode + 51 else s.c.base.escapeCode
    let r := { s.c.base with escapeCode := esc }.acceptChar s.cfg b
    ∃ t, exec (.cWrite b) s = .next t
      ∧ t = { s with
          c := { t.c with
            base := { r.1 with
              codeWordSize := t.c.base.codeWordSize, codeWordThreshold := t.c.base.codeWordThreshold }
            testCount := s.c.testCount - 1 }
          result := .none }
      ∧ (r.2 = none → t.c = { s.c with base := r.1, testCount := s.c.testCount - 1 })
      ∧ ∀ (code len : Nat), r.2 = some (code, len) →
          t.c.compressTest = s.c.compressTest + 8 * (len : Int) - (s.c.base.codeWordSize : Int)
          ∧ ∃ k bits, s.c.base.stepsTo t.c.base r.1.nextCodeWord code k bits
              ∧ t.c.streamBits = s.c.streamBits ++ bits ∧ s.c.out <+: t.c.out

/-- R195, R192: the mode test of the write that brings the count to 0, after the octet was handled in the old mode: the mode
changes as C.CMODE changes it, or the count and the accumulator start again. -/
def Obligations.CWriteModeTest : Prop :=
  ∀ (s : State) (b : Octet), s.written.c = true → s.c.testCount = 1 →
    ∃ u, exec (.cWrite b) { s with c := { s.c with testCount := 2 } } = .next u
      ∧ (((u.c.base.transparent = true ∧ 16 < u.c.compressTest)
            ∨ (u.c.base.transparent = false ∧ u.c.compressTest < -16)) →
          exec (.cWrite b) s = exec .cCmode u)
      ∧ (¬ ((u.c.base.transparent = true ∧ 16 < u.c.compressTest)
            ∨ (u.c.base.transparent = false ∧ u.c.compressTest < -16)) →
          exec (.cWrite b) s = .next { u with
            c := { u.c with testCount := if u.c.base.transparent then 64 else 256, compressTest := 0 } })

/-- R196, R197, R198, R200: C.CMODE from transparent mode puts out the escape code and ECM. In compressed mode C.FLUSH and
C.CMODE put out the pending match, then FLUSH or ETM, then 0s up to an octet. C.FLUSH in transparent mode does nothing. -/
def Obligations.CmodeAndFlush : Prop :=
  ∀ s : State, s.written.c = true → s.cfg.wf = true → s.c.inv s.cfg →
    (s.c.base.transparent = true →
      exec .cFlush s = .next { s with result := .none }
      ∧ exec .cCmode s = .next { s with
          c := { s.c with
            base := { s.c.base with transparent := false, modeTransition := true }
            testCount := 256, compressTest := 0, out := s.c.out ++ [s.c.base.escapeCode, s.cfg.ecm] }
          result := .none })
    ∧ (s.c.base.transparent = false →
        ∃ t u k bits pad,
          exec .cFlush s = .next t ∧ exec .cCmode s = .next u
          ∧ (match s.c.base.curCode, s.c.base.modeTransition with
              | some code, false => s.c.base.stepsTo t.c.base s.c.base.nextCodeWord code k bits
              | _, _ => bits = [] ∧ t.c.base.codeWordSize = s.c.base.codeWordSize
                  ∧ t.c.base.codeWordThreshold = s.c.base.codeWordThreshold)
          ∧ pad < 8
          ∧ t.c.streamBits = s.c.streamBits ++ bits ++ lowBits t.c.base.codeWordSize 1 ++ List.replicate pad false
          ∧ u.c.streamBits = s.c.streamBits ++ bits ++ lowBits t.c.base.codeWordSize 0 ++ List.replicate pad false
          ∧ t = { s with
              c := { s.c with
                base := { s.c.base with
                  codeWordSize := t.c.base.codeWordSize, codeWordThreshold := t.c.base.codeWordThreshold
                  modeTransition := true }
                bitBuf := 0, bitCnt := 0, out := t.c.out }
              result := .none }
          ∧ u = { t with
              c := { t.c with
                base := { t.c.base with transparent := true }
                testCount := 64, compressTest := 0, out := u.c.out } })

/-- R212, R222: D.WRITE in transparent mode, outside an escape pair: the escape code opens a pair, any other octet is data;
data rolls no escape code, since it differs from it. -/
def Obligations.DWriteTransparent : Prop :=
  ∀ (s : State) (b : Octet),
    s.takesStream → s.d.base.transparent = true → s.d.escaped = false →
    ∀ i ∈ [Instr.dWrite b, Instr.tData b],
      exec i s = .next { s with
        d := if b = s.d.base.escapeCode then { s.d with escaped := true }
          else { s.d with out := s.d.out ++ [b], base := (s.d.base.acceptChar s.cfg b).1 }
        result := .none }

/-- R212 to R216, R222: the escape pairs. ECM enters compressed mode; EID gives the escape code as data and rolls it; RESET
starts the codec again and keeps what was put out; any other octet is the fault BAD_COMMAND, and nothing else changes. The
octet behind the escape code, given to D.WRITE by itself, does the same. (A row of the stream as its octets given to D.WRITE is
the model's choice, log 13.) -/
def Obligations.EscapePairs : Prop :=
  ∀ (s : State) (cmd : Octet),
    s.takesStream → s.cfg.wf = true → s.d.base.transparent = true → s.d.escaped = false →
    exec .ecm s = .next { s with
        d := { s.d with base := { s.d.base with transparent := false, modeTransition := true }, inBuf := 0, inCnt := 0 }
        result := .none }
    ∧ exec .eid s = .next { s with
        d := { s.d with
          out := s.d.out ++ [s.d.base.escapeCode]
          base := ({ s.d.base with escapeCode := s.d.base.escapeCode + 51 }.acceptChar s.cfg s.d.base.escapeCode).1 }
        result := .none }
    ∧ exec .tReset s = .next { s with
        d := { s.d with base := V42Base.atReset, inBuf := 0, inCnt := 0 }
        result := .none }
    ∧ (wellFormed s.cfg (.tBadcmd cmd) = true →
        exec (.tBadcmd cmd) s = .next { s with
          d := { s.d with fault := some (.badCommand cmd) }, result := .fault (.badCommand cmd) })
    ∧ (let u : State := { s with d := { s.d with escaped := true } }
      exec (.dWrite s.cfg.ecm) u = exec .ecm s ∧ exec (.dWrite s.cfg.eid) u = exec .eid s
      ∧ exec (.dWrite s.cfg.resetCmd) u = exec .tReset s ∧ exec (.dWrite cmd) u = exec (.tBadcmd cmd) s)

/-- R211, R61, R62: in every mode an item of the transparent stream is its octets given to D.WRITE, the pair's first octet
being the escape code; in transparent mode no codeword is extracted, and an instruction of the codeword stream changes
nothing (both are the model's choice, logs 13 and 14). -/
def Obligations.StreamRowsInEveryMode : Prop :=
  ∀ (s : State) (b cmd : Octet) (w : Nat), s.takesStream →
    exec (.tData b) s = exec (.dWrite b) s
    ∧ (∀ e ∈ [(Instr.ecm, s.cfg.ecm), (Instr.eid, s.cfg.eid), (Instr.tReset, s.cfg.resetCmd), (Instr.tBadcmd cmd, cmd)],
        ∃ u rs, execAll [.dWrite s.d.base.escapeCode, .dWrite e.2] s = some (u, rs)
          ∧ exec e.1 s = .next { u with
              result := match u.d.fault with
                | some f => .fault f
                | none => .none })
    ∧ (s.d.base.transparent = true →
        ∀ i ∈ [Instr.cwEtm, .cwFlush, .cwStepup, .cwData w], exec i s = .next { s with result := .none })

/-- R218 to R221: what an extracted codeword does in compressed mode. A data codeword that names an in-use node puts out the
node's string, which each octet enters into the dictionary in turn; another is the fault BAD_CODEWORD. STEPUP past the
dictionary's size is the fault STEPUP_OVERFLOW. (A row of the codeword stream as an extracted codeword is the model's choice,
log 14.) -/
def Obligations.CodewordsEffect : Prop :=
  ∀ (s : State) (w : Nat),
    s.takesStream → s.d.base.transparent = false → 3 ≤ w →
    exec .cwEtm s = .next { s with
        d := { s.d with base := { s.d.base with transparent := true, modeTransition := true }, inBuf := 0, inCnt := 0 }
        result := .none }
    ∧ exec .cwFlush s = .next { s with
        d := { s.d with
          base := { s.d.base with modeTransition := true }
          inBuf := s.d.inBuf / 2 ^ (s.d.inCnt % 8), inCnt := s.d.inCnt / 8 * 8 }
        result := .none }
    ∧ exec .cwStepup s = .next (
        if s.cfg.maxCodeWords < 2 * s.d.base.codeWordThreshold then
          { s with
            d := { s.d with fault := some (.stepupOverflow s.d.base.codeWordSize) }
            result := .fault (.stepupOverflow s.d.base.codeWordSize) }
        else
          { s with
            d := { s.d with
              base := { s.d.base with
                codeWordSize := s.d.base.codeWordSize + 1, codeWordThreshold := 2 * s.d.base.codeWordThreshold } }
            result := .none })
    ∧ (s.cfg.maxCodeWords ≤ w ∨ s.d.base.isFree w = true →
        exec (.cwData w) s = .next { s with
          d := { s.d with fault := some (.badCodeword w) }, result := .fault (.badCodeword w) })
    ∧ (w < s.cfg.maxCodeWords → s.d.base.isFree w = false →
        exec (.cwData w) s = .next { s with
          d := { s.d with
            out := s.d.out ++ s.d.base.stringOf s.cfg w
            base := (s.d.base.stringOf s.cfg w).foldl
              (fun x b =>
                ((if b = x.escapeCode then { x with escapeCode := x.escapeCode + 51 } else x).acceptChar s.cfg b).1)
              s.d.base }
          result := .none })

/-- R217, R34: D.WRITE in compressed mode holds the octet's bits behind those it has; when they are a codeword's width, the
low bits are the codeword, which is executed, by its row (log 14), with the others left; at most one codeword completes. -/
def Obligations.DWriteCompressed : Prop :=
  ∀ (s : State) (b : Octet),
    s.takesStream → s.cfg.wf = true → s.d.inv s.cfg → s.d.base.transparent = false →
    let buf := s.d.inBuf + b.toNat * 2 ^ s.d.inCnt
    let size := s.d.base.codeWordSize
    (s.d.inCnt + 8 < size →
      exec (.dWrite b) s = .next { s with d := { s.d with inBuf := buf, inCnt := s.d.inCnt + 8 }, result := .none })
    ∧ (size ≤ s.d.inCnt + 8 →
        exec (.dWrite b) s
          = exec (codewordInstr (buf % 2 ^ size))
              { s with d := { s.d with inBuf := buf / 2 ^ size, inCnt := s.d.inCnt + 8 - size } })

/-- R178: C and D start from reset. Whatever C is told to write, flush or change, when D has consumed all that C has put out
up to a C.FLUSH or a C.CMODE, D has put out exactly what was written, and the shared state of R15 is equal in both. -/
def Obligations.LockStepAfterFlush : Prop :=
  ∀ (s : State) (is : List Instr), s.cfg.wf = true →
    (∀ i ∈ is, i = .cCmode ∨ i = .cFlush ∨ ∃ b, i = .cWrite b) →
    ∀ last ∈ [Instr.cFlush, .cCmode], ∃ t u as bs,
      execAll (.cReset :: .dReset :: (is ++ [last])) s = some (t, as)
      ∧ execAll (t.c.out.map .dWrite) t = some (u, bs)
      ∧ u.d.fault = none ∧ u.d.base = t.c.base
      ∧ u.d.out = is.flatMap fun i =>
          match i with
          | .cWrite b => [b]
          | _ => []

/-! ### The whole machine -/

/-- R230, R233, R262: every operation is a next state, a refusal too (the model's reading of R230, log 6). A refusal leaves
everything but the answer unchanged. Before its first RESET every operation of a unit but its RESET is refused; so are D.WRITE
and what stands for its octets under `D.fault`, the pumps and what arrives on the line under `L.fault` (that these rows count as
operations of D and of L is the model's choice, log 2). -/
def Obligations.RefusalChangesNothing : Prop :=
  ∀ (i : Instr) (s : State),
    (∃ t, exec i s = .next t ∧ ∀ r, t.result = .refused r → t = { s with result := .refused r })
    ∧ (s.written.unit (unitOf i) = false → i ≠ (unitOf i).reset →
        exec i s = .next { s with result := .refused .unwritten })
    ∧ (unitOf i = .d → i ≠ .dReset → i ≠ .dPop → s.written.d = true → s.d.fault ≠ none →
        exec i s = .next { s with result := .refused .faultLatched })
    ∧ (unitOf i = .l → i ≠ .lReset → s.written.l = true → s.l.fault ≠ none →
        exec i s = .next { s with result := .refused .faultLatched })

/-- R233, R235, R223: only D.RESET and L.RESET clear `D.fault`, only L.RESET clears `L.fault`, and no operation replaces a
latched fault. -/
def Obligations.OnlyResetClearsFaults : Prop :=
  ∀ (i : Instr) (s t : State) (e : Fault), exec i s = .next t →
    (s.d.fault = some e → i ≠ .dReset → i ≠ .lReset → t.d.fault = some e)
    ∧ (s.l.fault = some e → i ≠ .lReset → t.l.fault = some e)

/-- R231: no rule reads the event trace: with another trace before it an operation does the same and appends the same. -/
def Obligations.TraceIsNeverRead : Prop :=
  ∀ (i : Instr) (s t : State) (es : List Event), exec i s = .next t →
    exec i { s with trace := es ++ s.trace } = .next { t with trace := es ++ t.trace }

/-- R10, R19, R150: an operation of V, H, C or D changes no other unit; an operation of L changes C and D only when
compression is enabled or it is L.RESET. -/
def Obligations.UnitsAreIsolated : Prop :=
  ∀ (i : Instr) (s t : State), exec i s = .next t →
    (unitOf i = .v → t = { s with v := t.v, written := t.written, trace := t.trace, result := t.result })
    ∧ (unitOf i = .h → t = { s with h := t.h, written := t.written, trace := t.trace, result := t.result })
    ∧ (unitOf i = .c → t = { s with c := t.c, written := t.written, result := t.result })
    ∧ (unitOf i = .d → t = { s with d := t.d, written := t.written, result := t.result })
    ∧ (unitOf i = .l → s.cfg.compEnabled = false → i ≠ .lReset → t.c = s.c ∧ t.d = s.d ∧ t.written = s.written)

/-- R37, R38, R231, R4: the sink and the trace only grow, octets leave the source only at its front, and the parameters and
what is still presented stay. -/
def Obligations.OutsideGrowsOnly : Prop :=
  ∀ (i : Instr) (s t : State), exec i s = .next t →
    s.sink <+: t.sink ∧ s.trace <+: t.trace ∧ t.source <:+ s.source ∧ t.cfg = s.cfg ∧ t.input = s.input

/-- R123, R131, R151, R276: the transitions of the phase that one operation of the host, or one frame handed to L, can make from
a state in which L's registers hold legal values (LineUnitsInvKept). V14 and Release are left only by L.RESET, whatever the
instruction (a frame as one instruction is the model's choice, log 11). -/
def Obligations.PhaseTransitions : Prop :=
  ∀ (i : Instr) (s t : State), s.l.inv → exec i s = .next t →
    ((∃ b now, i = .lRxbit b now) ∨ (∃ now, i = .lTxbit now) ∨ (∃ now, frameTime i = some now) ∨ unitOf i ≠ .l →
      t.l.phase = s.l.phase
      ∨ (s.l.phase, t.l.phase) ∈
          [(Phase.none, Phase.detection), (.none, .v14), (.detection, .v14), (.detection, .establish),
            (.establish, .connected), (.establish, .release), (.connected, .release)])
    ∧ (i ≠ .lReset → s.l.phase = .v14 ∨ s.l.phase = .release → t.l.phase = s.l.phase)

/-- R30: every step keeps the canonical form of the two dictionaries and of the stored frames (log 15). -/
def Obligations.MemoryWfKept : Prop :=
  ∀ s t : State, Memory.wf s = true → step s = .next t → Memory.wf t = true

/-- R12, R13, R14, R21: every step keeps the legal values of V, H and L. -/
def Obligations.LineUnitsInvKept : Prop :=
  ∀ s t : State, s.v.inv → s.h.inv → s.l.inv → step s = .next t → t.v.inv ∧ t.h.inv ∧ t.l.inv

/-- R22, R16, R17: every step keeps the dictionary invariants and the legal values of C and D, in a memory in canonical form
(log 15; every step keeps it, MemoryWfKept). -/
def Obligations.CodecInvKept : Prop :=
  ∀ s t : State, s.cfg.wf = true → Memory.wf s = true → s.c.inv s.cfg → s.d.inv s.cfg → step s = .next t →
    t.cfg = s.cfg ∧ t.c.inv t.cfg ∧ t.d.inv t.cfg

/-- The machine right after reset meets every invariant, under all parameters that the spec allows. -/
def Obligations.ResetMeetsInvariants : Prop :=
  ∀ p : Params, p.wf = true →
    let s := State.resetWith p
    Memory.wf s = true ∧ s.v.inv ∧ s.h.inv ∧ s.l.inv ∧ s.c.inv p ∧ s.d.inv p

end Slice0Statements
end

