-- ==== Sys2Proof/Laws/Lapm.lean ====
section
/-!
SUPPORT. What the internal procedures of L can change (42_lapm.md): one lemma for each, which names every register that it
writes.
-/

namespace Sys2Proof.Machine

/-- R139: a frame is queued in H and the inactivity timer restarts; nothing else changes. -/
theorem State.lSend_eq (s : State) (f : List Octet) (now : Nat) :
    s.lSend f now = { s with h := s.h.sendFrame f, l := { s.l with inactStart := now } } := by
  simp only [State.lSend, State.setH, State.setL]

/-- R128: V has the answer queued at nine stop bits, and `adpSent` is set; nothing else changes. -/
theorem State.sendAdp_eq (s : State) :
    s.sendAdp = { s with
      v := ({ s.v with txStopBits := Config.adpStopBits }.tx Config.adpE).tx Config.adpC
      l := { s.l with adpSent := true } } := by
  simp only [State.sendAdp, State.setV, State.setL]

/-- R149: PopBit of V's queue moves the bit position and takes the head octet with its last bit. -/
theorem State.popV_eq (s : State) :
    s.popV = { s with
      v := { s.v with txQueue := tailBit s.v.txQueue s.l.txBitPos }, l := { s.l with txBitPos := s.l.txBitPos + 1 } } := rfl

/-- R149: PopBit of H's queue moves the bit position and takes the head octet with its last bit. -/
theorem State.popH_eq (s : State) :
    s.popH = { s with
      h := { s.h with txBuffer := tailBit s.h.txBuffer s.l.txBitPos }
      l := { s.l with txBitPos := s.l.txBitPos + 1 } } := rfl

/-- R84: a bit for V changes V and may log its events; nothing else changes. -/
theorem State.vBit_eq (s : State) (b : Bool) :
    s.vBit b = ({ s with v := (s.v.rxBit b).v, trace := s.trace ++ (s.v.rxBit b).events }, (s.v.rxBit b).char) := rfl

/-- R125: the test of N(R), written out. -/
theorem Lapm.nrValid_iff (l : Lapm) (nr : SeqNum) : l.nrValid nr = true ↔ l.accepts nr := by
  simp [Lapm.nrValid, lteMod128, Lapm.accepts, and_assoc]

/-- R125: the loop writes V(A) and the stored frames only. -/
theorem Lapm.ackTo_eq (nr : SeqNum) (fuel : Nat) (l : Lapm) :
    Lapm.ackTo nr fuel l = { l with
      txSeqAck := (Lapm.ackTo nr fuel l).txSeqAck, sentIFrames := (Lapm.ackTo nr fuel l).sentIFrames } := by
  induction fuel generalizing l with
  | zero => rfl
  | succ n ih =>
    unfold Lapm.ackTo
    split
    · rfl
    · exact (ih _).trans (by rfl)

/-- R125: with a turn for every number on the way the loop ends at `nr`. -/
theorem Lapm.ackTo_txSeqAck (nr : SeqNum) (fuel : Nat) (l : Lapm) (hf : (nr - l.txSeqAck).toNat ≤ fuel) :
    (Lapm.ackTo nr fuel l).txSeqAck = nr := by
  induction fuel generalizing l with
  | zero =>
    show l.txSeqAck = nr
    have h0 : nr - l.txSeqAck = 0 := BitVec.eq_of_toNat_eq (by simpa using hf)
    bv_omega
  | succ n ih =>
    unfold Lapm.ackTo
    split
    · assumption
    · rename_i hne
      refine ih _ ?_
      show (nr - (l.txSeqAck + 1)).toNat ≤ n
      bv_omega

/-- R125: an N(R) changes V(A) and the stored frames, or is logged. -/
theorem State.ackIFrame_eq (s : State) (nr : SeqNum) :
    s.ackIFrame nr = { s with
      l := { s.l with txSeqAck := s.l.ackAfter nr, sentIFrames := (s.ackIFrame nr).l.sentIFrames }
      trace := s.trace ++ s.l.ackEvents nr } := by
  unfold State.ackIFrame Lapm.ackAfter Lapm.ackEvents
  by_cases h : s.l.accepts nr
  · have hv := (Lapm.nrValid_iff s.l nr).2 h
    have ha := Lapm.ackTo_txSeqAck nr 128 s.l (by have := (nr - s.l.txSeqAck).isLt; omega)
    have he := Lapm.ackTo_eq nr 128 s.l
    rw [ha] at he
    simp only [hv, if_true, if_pos h, List.append_nil, State.setL]
    rw [← he]
  · have hv : s.l.nrValid nr = false := by
      rw [← Bool.not_eq_true, Lapm.nrValid_iff]
      exact h
    simp only [hv, Bool.false_eq_true, if_false, if_neg h, State.log]

/-- R136: the loop changes H, the stored frames and the inactivity timer only. -/
theorem State.resendFrom_eq (now fuel : Nat) (q : SeqNum) (s : State) :
    State.resendFrom now fuel q s = { s with
      h := (State.resendFrom now fuel q s).h
      l := { s.l with
        sentIFrames := (State.resendFrom now fuel q s).l.sentIFrames
        inactStart := (State.resendFrom now fuel q s).l.inactStart } } := by
  induction fuel generalizing q s with
  | zero => rfl
  | succ n ih =>
    unfold State.resendFrom
    split
    · rfl
    · refine (ih _ _).trans ?_
      have : s.resend q now = { s with
          h := (s.resend q now).h
          l := { s.l with
            sentIFrames := (s.resend q now).l.sentIFrames, inactStart := (s.resend q now).l.inactStart } } := by
        unfold State.resend
        split
        · rfl
        · simp only [State.lSend, State.setH, State.setL]
      generalize s.resend q now = t at this ⊢
      rw [this]

/-- R136: an accepted N(R) is taken and then sent from; one that is not accepted is logged, and nothing else changes (log 21). -/
theorem State.handleReject_eq (s : State) (nr : SeqNum) (now : Nat) :
    s.handleReject nr now =
      if s.l.accepts nr then State.resendFrom now 128 nr (s.ackIFrame nr)
      else { s with trace := s.trace ++ [.badNr] } := by
  unfold State.handleReject
  by_cases h : s.l.accepts nr
  · rw [if_pos h, if_pos ((Lapm.nrValid_iff s.l nr).2 h)]
  · have hv : s.l.nrValid nr = false := by
      rw [← Bool.not_eq_true, Lapm.nrValid_iff]
      exact h
    simp only [hv, Bool.false_eq_true, if_false, if_neg h, State.ackIFrame, State.log]

/-- R150: delivering an octet changes D and the sink, and `L.fault` where D faults. -/
theorem State.deliver_eq (s : State) (x : Octet) :
    s.deliver x = { s with
      l := { s.l with fault := (s.deliver x).l.fault }, d := (s.deliver x).d, sink := (s.deliver x).sink } := by
  have hs : ∀ (os : List Octet) (t : State), os.foldl State.sinkWrite t = { t with sink := t.sink ++ os } := by
    intro os
    induction os with
    | nil => intro t; simp
    | cons o os ih =>
      intro t
      rw [List.foldl_cons, ih]
      simp [State.sinkWrite]
  unfold State.deliver
  split
  · dsimp only
    split
    · rfl
    · rw [hs]
      rfl
  · rfl

/-- R150: delivering an information field changes D and the sink, and `L.fault` where D faults. -/
theorem State.deliverAll_eq (s : State) (xs : List Octet) :
    s.deliverAll xs = { s with
      l := { s.l with fault := (s.deliverAll xs).l.fault }, d := (s.deliverAll xs).d
      sink := (s.deliverAll xs).sink } := by
  induction xs generalizing s with
  | nil => rfl
  | cons x xs ih =>
    unfold State.deliverAll
    split
    · exact s.deliver_eq x
    · refine (ih _).trans ?_
      rw [s.deliver_eq x]

end Sys2Proof.Machine
end

