-- ==== Sys2Proof/Laws/Line.lean ====
section
/-!
SUPPORT. What the bit-packing operations of V and H do to the line bits that wait (20_memory.md R31): one lemma for each of
`TransmitBit` (R81), `RawBit` (R101), `StuffBit` (R103) and `Shift` (R105).
-/

namespace Sys2Proof.Machine

/-- Line bits of two octet lists. -/
@[simp] theorem octetsBits_append (a b : List Octet) : octetsBits (a ++ b) = octetsBits a ++ octetsBits b := by
  simp [octetsBits]

@[simp] theorem octetsBits_nil : octetsBits [] = [] := rfl

@[simp] theorem octetsBits_cons (o : Octet) (l : List Octet) : octetsBits (o :: l) = octetBits o ++ octetsBits l := rfl

@[simp] theorem octetBits_length (o : Octet) : (octetBits o).length = 8 := rfl

/-- R31: packing a bit at position `n` of an octet that is 0 from there on puts it behind the `n` bits held. -/
theorem take_octetBits_orBit (cur : Octet) (n : Nat) (b : Bool) (hn : n < 8) (h : cur >>> n = 0) :
    (octetBits (orBit cur n b)).take (n + 1) = (octetBits cur).take n ++ [b] ∧ orBit cur n b >>> (n + 1) = 0 := by
  revert h
  have hd : ∀ n < 8, ∀ b : Bool, ∀ cur : Octet, cur >>> n = 0 →
      (octetBits (orBit cur n b)).take (n + 1) = (octetBits cur).take n ++ [b] ∧ orBit cur n b >>> (n + 1) = 0 := by
    decide +kernel
  exact hd n hn b cur

/-- R31: the eighth bit completes the octet. -/
theorem octetBits_orBit_seven (cur : Octet) (b : Bool) (h : cur >>> 7 = 0) :
    octetBits (orBit cur 7 b) = (octetBits cur).take 7 ++ [b] := by
  revert cur b
  decide +kernel

/-- R81: `TransmitBit(b)` puts the line bit `b` behind those that V holds, and nothing else of V changes. -/
theorem V14.transmitBit_queued {v : V14} (hv : v.inv) (b : Bool) : v.queued (v.transmitBit b) [b] := by
  obtain ⟨h1, h2, h3, h4, h5, h6⟩ := hv
  have hlt : v.txBitCount.toNat < 8 := v.txBitCount.isLt
  obtain ⟨ht, hz⟩ := take_octetBits_orBit v.txCurByte v.txBitCount.toNat b hlt h5
  unfold V14.transmitBit
  by_cases h7 : v.txBitCount = 7
  · rw [h7] at h5
    have ht := octetBits_orBit_seven _ b h5
    simp [V14.queued, h7, V14.lineBits, V14.inv, ht, h1, h3, h4, h6]
    exact h2
  · have hn : (v.txBitCount + 1).toNat = v.txBitCount.toNat + 1 := by
      have : v.txBitCount.toNat ≠ 7 := fun h => h7 (BitVec.eq_of_toNat_eq (by simpa using h))
      rw [BitVec.toNat_add]
      simp
      omega
    simp only [V14.queued, V14.lineBits, V14.inv, if_neg h7, hn, ht, hz, h1, h3, h4, h6, List.append_assoc, and_self,
      and_true, true_and]
    exact h2

/-- R81: `TransmitBit` of each of a list of bits. -/
theorem V14.transmitBits_queued {v : V14} (hv : v.inv) (bits : List Bool) : v.queued (v.transmitBits bits) bits := by
  induction bits generalizing v with
  | nil => exact ⟨by simp [V14.transmitBits], hv, rfl⟩
  | cons b bs ih =>
    obtain ⟨h1, h2, h3⟩ := V14.transmitBit_queued hv b
    obtain ⟨k1, k2, k3⟩ := ih h2
    refine ⟨?_, k2, ?_⟩
    · show ((v.transmitBit b).transmitBits bs).lineBits = _
      rw [k1, h1, List.append_assoc]
      rfl
    · show (v.transmitBit b).transmitBits bs = { v with
        txQueue := ((v.transmitBit b).transmitBits bs).txQueue, txCurByte := ((v.transmitBit b).transmitBits bs).txCurByte
        txBitCount := ((v.transmitBit b).transmitBits bs).txBitCount }
      exact k3.trans (by rw [h3])

/-- R101: `RawBit(b)` puts the line bit `b` behind those that H holds; of H only the transmitter's octet and queue change. -/
theorem Hdlc.rawBit_lineBits {h : Hdlc} (hh : h.inv) (b : Bool) :
    (h.rawBit b).lineBits = h.lineBits ++ [b] ∧ (h.rawBit b).inv
    ∧ h.rawBit b = { h with
        txBuffer := (h.rawBit b).txBuffer, txCur := (h.rawBit b).txCur, txCnt := (h.rawBit b).txCnt } := by
  obtain ⟨h1, h2, h3⟩ := hh
  have hlt : h.txCnt.toNat < 8 := h.txCnt.isLt
  obtain ⟨ht, hz⟩ := take_octetBits_orBit h.txCur h.txCnt.toNat b hlt h1
  unfold Hdlc.rawBit
  by_cases h7 : h.txCnt = 7
  · rw [h7] at h1
    have ht := octetBits_orBit_seven _ b h1
    simp [h7, Hdlc.lineBits, Hdlc.inv, ht, h2, h3]
  · have hn : (h.txCnt + 1).toNat = h.txCnt.toNat + 1 := by
      have : h.txCnt.toNat ≠ 7 := fun e => h7 (BitVec.eq_of_toNat_eq (by simpa using e))
      rw [BitVec.toNat_add]
      simp
      omega
    simp only [Hdlc.lineBits, Hdlc.inv, if_neg h7, hn, ht, hz, h2, h3, List.append_assoc, and_self]

/-- R101: `RawBit` of each of a list of bits. -/
theorem Hdlc.rawBits_lineBits {h : Hdlc} (hh : h.inv) (bits : List Bool) :
    (bits.foldl Hdlc.rawBit h).lineBits = h.lineBits ++ bits ∧ (bits.foldl Hdlc.rawBit h).inv
    ∧ bits.foldl Hdlc.rawBit h = { h with
        txBuffer := (bits.foldl Hdlc.rawBit h).txBuffer, txCur := (bits.foldl Hdlc.rawBit h).txCur
        txCnt := (bits.foldl Hdlc.rawBit h).txCnt } := by
  induction bits generalizing h with
  | nil => exact ⟨by simp, hh, rfl⟩
  | cons b bs ih =>
    obtain ⟨h1, h2, h3⟩ := Hdlc.rawBit_lineBits hh b
    obtain ⟨k1, k2, k3⟩ := ih h2
    refine ⟨?_, k2, ?_⟩
    · rw [List.foldl_cons, k1, h1, List.append_assoc]
      rfl
    · rw [List.foldl_cons]
      exact k3.trans (by rw [h3])

/-- R103: `StuffBit(b)` queues the bit, and a 0 behind the fifth 1 in a row; `txOnes` counts the 1s since the last 0. -/
theorem Hdlc.stuffBit_lineBits {h : Hdlc} (hh : h.inv) (b : Bool) :
    (h.stuffBit b).lineBits = h.lineBits ++ (if b = true ∧ h.txOnes = 4 then [true, false] else [b])
    ∧ (h.stuffBit b).inv
    ∧ h.stuffBit b = { h with
        txBuffer := (h.stuffBit b).txBuffer, txCur := (h.stuffBit b).txCur, txCnt := (h.stuffBit b).txCnt
        txOnes := if b = true ∧ h.txOnes ≠ 4 then h.txOnes + 1 else 0 } := by
  obtain ⟨h1, h2, h3⟩ := Hdlc.rawBit_lineBits hh b
  have ho : (h.rawBit b).txOnes = h.txOnes := by rw [h3]
  have hle := hh.2.2
  unfold Hdlc.stuffBit
  cases b with
  | false =>
    refine ⟨h1, ⟨h2.1, h2.2.1, by simp⟩, ?_⟩
    simp only [Bool.false_eq_true, if_false, false_and]
    rw [h3]
  | true =>
    by_cases h4 : h.txOnes = 4
    · obtain ⟨k1, k2, k3⟩ := Hdlc.rawBit_lineBits h2 false
      simp only [ho, h4, if_true, and_self]
      refine ⟨?_, ⟨k2.1, k2.2.1, by simp⟩, ?_⟩
      · show ((h.rawBit true).rawBit false).lineBits = _
        rw [k1, h1, List.append_assoc]
        rfl
      · simp only [if_pos (show (4 : BitVec 3) + 1 = 5 from rfl)]
        rw [k3, h3]
        simp
    · have h5 : h.txOnes + 1 ≠ 5 := fun e => h4 (by
        have := congrArg (· - 1) e
        simpa using this)
      simp only [ho, if_true, if_neg h5, h4, and_false, if_false, true_and, ne_eq, not_false_eq_true]
      refine ⟨h1, ⟨h2.1, h2.2.1, ?_⟩, ?_⟩
      · show (h.txOnes + 1).toNat ≤ 4
        have : h.txOnes.toNat ≠ 4 := fun e => h4 (BitVec.eq_of_toNat_eq (by simpa using e))
        rw [BitVec.toNat_add]
        simp
        omega
      · rw [h3]

/-- R105: `Shift(x)` puts the bit `x` behind those that H has received and not yet handed over. -/
theorem Hdlc.shift_shifted {h : Hdlc} (hh : h.inv) (x : Bool) : h.shifted (h.shift x) x h.rxOnes := by
  obtain ⟨h1, h2, h3⟩ := hh
  have hlt : h.rxCnt.toNat < 8 := h.rxCnt.isLt
  obtain ⟨ht, hz⟩ := take_octetBits_orBit h.rxCur h.rxCnt.toNat x hlt h2
  unfold Hdlc.shift
  by_cases h7 : h.rxCnt = 7
  · rw [h7] at h2
    have ht := octetBits_orBit_seven _ x h2
    simp [Hdlc.shifted, h7, Hdlc.heldBits, Hdlc.inv, ht, h1, h3]
  · have hn : (h.rxCnt + 1).toNat = h.rxCnt.toNat + 1 := by
      have : h.rxCnt.toNat ≠ 7 := fun e => h7 (BitVec.eq_of_toNat_eq (by simpa using e))
      rw [BitVec.toNat_add]
      simp
      omega
    simp only [Hdlc.shifted, Hdlc.heldBits, Hdlc.inv, if_neg h7, hn, ht, hz, h1, h3, List.append_assoc, and_self]

end Sys2Proof.Machine
end

