-- ==== Sys2Proof/Laws/Memory.lean ====
section
/-!
SUPPORT. The two index spaces (20_memory.md R30): reading after writing, and that every operation over them keeps the
canonical form (log 15).
-/

namespace Sys2Proof.Machine

/-! ### Cells -/

variable {α : Type}

/-- A canonical list behind a first entry. -/
theorem Cells.sorted_cons (a : Nat) (x : α) (m : List (Nat × α)) :
    Cells.sorted ((a, x) :: m) = true ↔ (∀ e ∈ m, a < e.1) ∧ Cells.sorted m = true := by
  induction m generalizing a x with
  | nil => simp [Cells.sorted]
  | cons e m ih =>
    obtain ⟨b, y⟩ := e
    simp only [Cells.sorted, Bool.and_eq_true, decide_eq_true_eq, List.forall_mem_cons]
    constructor
    · rintro ⟨hab, hs⟩
      exact ⟨⟨hab, fun e he => hab.trans (((ih b y).mp hs).1 e he)⟩, hs⟩
    · rintro ⟨⟨hab, -⟩, hs⟩
      exact ⟨hab, hs⟩

/-- What an inserted entry adds. -/
theorem Cells.mem_insert {m : List (Nat × α)} {k : Nat} {x : α} {e : Nat × α} (h : e ∈ Cells.insert m k x) :
    e = (k, x) ∨ e ∈ m := by
  induction m with
  | nil => simpa [Cells.insert] using h
  | cons a m ih =>
    obtain ⟨a, y⟩ := a
    simp only [Cells.insert] at h
    split at h
    · simpa using h
    · split at h
      · rcases List.mem_cons.mp h with h | h
        · exact .inl h
        · exact .inr (List.mem_cons_of_mem _ h)
      · rcases List.mem_cons.mp h with h | h
        · exact .inr (h ▸ List.mem_cons_self)
        · exact (ih h).imp_right (List.mem_cons_of_mem _)

/-- Erasing adds no entry. -/
theorem Cells.mem_erase {m : List (Nat × α)} {k : Nat} {e : Nat × α} (h : e ∈ Cells.erase m k) : e ∈ m := by
  induction m with
  | nil => simp [Cells.erase] at h
  | cons a m ih =>
    obtain ⟨a, y⟩ := a
    simp only [Cells.erase] at h
    split at h
    · exact List.mem_cons_of_mem _ h
    · rcases List.mem_cons.mp h with h | h
      · exact h ▸ List.mem_cons_self
      · exact List.mem_cons_of_mem _ (ih h)

/-- Inserting keeps the canonical form. -/
theorem Cells.sorted_insert {m : List (Nat × α)} (k : Nat) (x : α) (h : Cells.sorted m = true) :
    Cells.sorted (Cells.insert m k x) = true := by
  induction m with
  | nil => rfl
  | cons a m ih =>
    obtain ⟨a, y⟩ := a
    obtain ⟨ha, hm⟩ := (Cells.sorted_cons a y m).mp h
    simp only [Cells.insert]
    split
    · next hk =>
      refine (Cells.sorted_cons k x _).mpr ⟨?_, h⟩
      exact List.forall_mem_cons.mpr ⟨hk, fun e he => hk.trans (ha e he)⟩
    · split
      · next hk => exact (Cells.sorted_cons k x m).mpr ⟨hk ▸ ha, hm⟩
      · next hk hk' =>
        refine (Cells.sorted_cons a y _).mpr ⟨fun e he => ?_, ih hm⟩
        rcases Cells.mem_insert he with rfl | he
        · exact Nat.lt_of_le_of_ne (Nat.not_lt.mp hk) (Ne.symm hk')
        · exact ha e he

/-- Erasing keeps the canonical form. -/
theorem Cells.sorted_erase {m : List (Nat × α)} (k : Nat) (h : Cells.sorted m = true) :
    Cells.sorted (Cells.erase m k) = true := by
  induction m with
  | nil => rfl
  | cons a m ih =>
    obtain ⟨a, y⟩ := a
    obtain ⟨ha, hm⟩ := (Cells.sorted_cons a y m).mp h
    simp only [Cells.erase]
    split
    · exact hm
    · exact (Cells.sorted_cons a y _).mpr ⟨fun e he => ha e (Cells.mem_erase he), ih hm⟩

/-- No entry stands below the first key. -/
theorem Cells.lookup_of_lt {m : List (Nat × α)} {k : Nat} (h : ∀ e ∈ m, k < e.1) : Cells.lookup m k = none := by
  induction m with
  | nil => rfl
  | cons a m ih =>
    obtain ⟨a, y⟩ := a
    have ha : a ≠ k := Nat.ne_of_gt (h _ List.mem_cons_self)
    simp [Cells.lookup, ha, ih fun e he => h e (List.mem_cons_of_mem _ he)]

/-- Reading after an insertion. -/
theorem Cells.lookup_insert (m : List (Nat × α)) (k q : Nat) (x : α) :
    Cells.lookup (Cells.insert m k x) q = if k = q then some x else Cells.lookup m q := by
  induction m with
  | nil => simp [Cells.insert, Cells.lookup]
  | cons a m ih =>
    obtain ⟨a, y⟩ := a
    simp only [Cells.insert]
    split
    · simp [Cells.lookup]
    · split
      · next hk => subst hk; simp only [Cells.lookup]; split <;> rfl
      · next hk =>
        simp only [Cells.lookup, ih]
        split
        · next ha => subst ha; simp [hk]
        · rfl

/-- Reading after an erasure. -/
theorem Cells.lookup_erase {m : List (Nat × α)} (k q : Nat) (h : Cells.sorted m = true) :
    Cells.lookup (Cells.erase m k) q = if k = q then none else Cells.lookup m q := by
  induction m with
  | nil => simp [Cells.erase, Cells.lookup]
  | cons a m ih =>
    obtain ⟨a, y⟩ := a
    obtain ⟨ha, hm⟩ := (Cells.sorted_cons a y m).mp h
    simp only [Cells.erase]
    split
    · next hk =>
      subst hk
      split
      · next hq => exact hq ▸ Cells.lookup_of_lt ha
      · next hq => simp [Cells.lookup, hq]
    · next hk =>
      simp only [Cells.lookup, ih hm]
      split
      · next haq => subst haq; simp [Ne.symm hk]
      · rfl

/-! ### Dictionaries -/

variable {x : V42Base}

/-- The canonical form of a dictionary, as a proposition. -/
theorem V42Base.nodesWf_iff :
    x.nodesWf = true ↔
      Cells.sorted x.node = true ∧ ∀ e ∈ x.node, e.2 ≠ Node.atReset e.1 ∧ Cells.sorted e.2.children = true := by
  simp [V42Base.nodesWf, List.all_eq_true]

/-- An entry that is found is in the list. -/
theorem Cells.mem_of_lookup {m : List (Nat × α)} {k : Nat} {v : α} (h : Cells.lookup m k = some v) : (k, v) ∈ m := by
  induction m with
  | nil => simp [Cells.lookup] at h
  | cons a m ih =>
    obtain ⟨a, y⟩ := a
    simp only [Cells.lookup] at h
    split at h
    · next ha => subst ha; simp_all
    · exact List.mem_cons_of_mem _ (ih h)

/-- Every node's children are in canonical form, the unlisted nodes' too. -/
theorem V42Base.children_sorted (h : x.nodesWf = true) (i : Nat) : Cells.sorted (x.nodeAt i).children = true := by
  rw [V42Base.nodeAt]
  cases hl : Cells.lookup x.node i with
  | none => simp only [Option.getD_none, Node.atReset]; split <;> rfl
  | some n => exact ((V42Base.nodesWf_iff.mp h).2 _ (Cells.mem_of_lookup hl)).2

/-- Writing a node with canonical children keeps the canonical form. -/
theorem V42Base.setNode_nodesWf (i : Nat) (n : Node) (h : x.nodesWf = true) (hn : Cells.sorted n.children = true) :
    (x.setNode i n).nodesWf = true := by
  obtain ⟨hs, ha⟩ := V42Base.nodesWf_iff.mp h
  refine V42Base.nodesWf_iff.mpr ?_
  simp only [V42Base.setNode]
  split
  · exact ⟨Cells.sorted_erase i hs, fun e he => ha e (Cells.mem_erase he)⟩
  · next hne =>
    refine ⟨Cells.sorted_insert i n hs, fun e he => ?_⟩
    rcases Cells.mem_insert he with rfl | he
    · exact ⟨hne, hn⟩
    · exact ha e he

/-- Reading a node after a write (R30). -/
theorem V42Base.nodeAt_setNode (i k : Nat) (n : Node) (h : x.nodesWf = true) :
    (x.setNode i n).nodeAt k = if i = k then n else x.nodeAt k := by
  obtain ⟨hs, -⟩ := V42Base.nodesWf_iff.mp h
  simp only [V42Base.nodeAt, V42Base.setNode]
  by_cases hik : i = k
  · subst hik
    by_cases hn : n = Node.atReset i
    · simp [hn, Cells.lookup_erase _ _ hs]
    · simp [hn, Cells.lookup_insert]
  · by_cases hn : n = Node.atReset i
    · simp [hn, hik, Cells.lookup_erase _ _ hs]
    · simp [hn, hik, Cells.lookup_insert]

/-- `addChild` keeps the canonical form (R174). -/
theorem V42Base.addChild_nodesWf (p : Nat) (c : Octet) (n : Nat) (h : x.nodesWf = true) :
    (x.addChild p c n).nodesWf = true := by
  have h1 := V42Base.setNode_nodesWf n { x.nodeAt n with character := c, parent := .node p } h
    (V42Base.children_sorted h n)
  exact V42Base.setNode_nodesWf p _ h1 (Cells.sorted_insert _ _ (V42Base.children_sorted h1 p))

/-- `detach` keeps the canonical form (R175). -/
theorem V42Base.detach_nodesWf (n : Nat) (h : x.nodesWf = true) : (x.detach n).nodesWf = true := by
  unfold V42Base.detach
  split
  · exact h
  · exact V42Base.setNode_nodesWf n _ h (V42Base.children_sorted h n)
  · next q _ =>
    have h1 := V42Base.setNode_nodesWf q
      { x.nodeAt q with children := Cells.erase (x.nodeAt q).children (x.nodeAt n).character.toNat } h
      (Cells.sorted_erase _ (V42Base.children_sorted h q))
    exact V42Base.setNode_nodesWf n _ h1 (V42Base.children_sorted h1 n)

/-- `recoverNode` keeps the canonical form (R175). -/
theorem V42Base.recoverNode_nodesWf (p : Params) (h : x.nodesWf = true) : (x.recoverNode p).nodesWf = true :=
  V42Base.detach_nodesWf _ h

/-- The dictionary after DictReset is in canonical form (R173). -/
theorem V42Base.atReset_nodesWf : V42Base.atReset.nodesWf = true := rfl

/-- The machine right after reset is in canonical form. -/
theorem State.reset_memory_wf : Memory.wf State.reset = true := rfl

end Sys2Proof.Machine
end

