-- ==== Sys2Proof/Laws/Ops.lean ====
section
/-!
SUPPORT. For each shared operation that answers an outcome, everything that it can do.
-/

namespace Sys2Proof.Machine

variable {s t : State}

/-- `done` answers one next state. -/
theorem done_next_iff {r : Result} : done s r = .next t ↔ t = s.answer r := by simp [done, eq_comm]

/-- A refusal of R233 is a next state that differs in its answer alone. -/
theorem refuse_next_iff {r : Refusal} : refuse s r = .next t ↔ t = s.answer (.refused r) := by simp [refuse, eq_comm]

/-- What an operation of a unit can do (R262). -/
theorem whenWritten_next_iff {w : Bool} {k : Out} :
    whenWritten w s k = .next t ↔ (w = false ∧ t = s.answer (.refused .unwritten)) ∨ (w = true ∧ k = .next t) := by
  cases w <;> simp [whenWritten, refuse_next_iff]

/-- What an operation that a latched fault shuts out can do (R233). -/
theorem whenNoFault_next_iff {f : Option Fault} {k : Out} :
    whenNoFault f s k = .next t ↔
      (f ≠ none ∧ t = s.answer (.refused .faultLatched)) ∨ (f = none ∧ k = .next t) := by
  cases f <;> simp [whenNoFault, refuse_next_iff]

/-- What a POP can do (R87, R108, R199, R224). -/
theorem popQueue_next_iff {q : List Octet} {put : List Octet → State} :
    popQueue q s put = .next t ↔
      (q = [] ∧ t = s.answer (.refused .emptyQueue)) ∨ (∃ b r, q = b :: r ∧ t = (put r).answer (.octet b)) := by
  cases q <;> simp [popQueue, refuse, done, eq_comm]

/-- What an operation that gives D octets of its stream can do (R211, R233, R262). -/
theorem dInput_next_iff {d : Decomp} :
    dInput s d = .next t ↔
      (s.written.d = false ∧ t = s.answer (.refused .unwritten))
      ∨ (s.written.d = true ∧ s.d.fault ≠ none ∧ t = s.answer (.refused .faultLatched))
      ∨ (s.written.d = true ∧ s.d.fault = none ∧ t = (s.setD d).answer (faultOr d.fault .none)) := by
  rw [dInput, whenWritten_next_iff, whenNoFault_next_iff, done_next_iff]
  tauto

/-- What a pump of L, and what arrives on the line, can do (R126, R144, R233, R262). -/
theorem lPump_next_iff {k : Out} :
    lPump s k = .next t ↔
      (s.written.l = false ∧ t = s.answer (.refused .unwritten))
      ∨ (s.written.l = true ∧ s.l.fault ≠ none ∧ t = s.answer (.refused .faultLatched))
      ∨ (s.written.l = true ∧ s.l.fault = none ∧ k = .next t) := by
  rw [lPump, whenWritten_next_iff, whenNoFault_next_iff]
  tauto

/-- What the arrival of line bits can do, behind its refusals (log 9). -/
theorem lineArrives_open {bits : List Bool} {now : Nat} (hw : s.written.l = true) (hf : s.l.fault = none) :
    lineArrives bits now s
      = .next ((s.lRxBits now bits).answer (faultOr (s.lRxBits now bits).l.fault .none)) := by
  rw [lineArrives, lPump_next_iff]
  exact .inr (.inr ⟨hw, hf, rfl⟩)

/-- What the arrival of a frame can do, behind its refusals (log 11). -/
theorem frameArrives_open {f : List Octet} {now : Nat} (hw : s.written.l = true) (hf : s.l.fault = none) :
    frameArrives f now s = .next ((s.lFrame f now).answer (faultOr (s.lFrame f now).l.fault .none)) := by
  rw [frameArrives, lPump_next_iff]
  exact .inr (.inr ⟨hw, hf, rfl⟩)

/-- The timer check acts in phase Detection alone (R130). -/
theorem checkDetectionTimer_of_ne {now : Nat} (h : s.l.phase ≠ .detection) : s.checkDetectionTimer now = s := by
  simp [State.checkDetectionTimer, h]

/-- The timer check before expiry (R130). -/
theorem checkDetectionTimer_of_lt {now : Nat} (h : now < s.l.detStart + Config.t400) :
    s.checkDetectionTimer now = s := by
  simp [State.checkDetectionTimer, timerExpired, Nat.not_le.mpr h]

end Sys2Proof.Machine
end

