-- ==== Sys2Proof/Laws/PerInstr.lean ====
section
/-!
SUPPORT. The statement that is made of every instruction, one lemma a constructor.
-/

namespace Sys2Proof.Laws.Presented

/-- An instruction's presentation is one of an instruction: never octets for the byte source (20_memory.md R37). -/
def Statement (i : Instr) : Prop := ∀ (p : Params) (octets : List Octet), encode p i ≠ .supply octets

theorem v14Setsb (n : Nat) : Statement (.v14Setsb n) := nofun

theorem v14Tx (b : Octet) : Statement (.v14Tx b) := nofun

theorem v14Flush : Statement .v14Flush := nofun

theorem v14Rx (b : Octet) : Statement (.v14Rx b) := nofun

theorem v14Rsb : Statement .v14Rsb := nofun

theorem v14Pop : Statement .v14Pop := nofun

theorem v14Reset : Statement .v14Reset := nofun

theorem v14Rxbit (b : Bool) : Statement (.v14Rxbit b) := nofun

theorem hCrc16 (m : List Octet) : Statement (.hCrc16 m) := nofun

theorem hSendframe (f : List Octet) : Statement (.hSendframe f) := nofun

theorem hSendflag : Statement .hSendflag := nofun

theorem hRxbit (b : Bool) : Statement (.hRxbit b) := nofun

theorem hPop : Statement .hPop := nofun

theorem hReset : Statement .hReset := nofun

theorem lRxbit (b : Bool) (now : Nat) : Statement (.lRxbit b now) := nofun

theorem lTxbit (now : Nat) : Statement (.lTxbit now) := nofun

theorem lReset : Statement .lReset := nofun

theorem cWrite (b : Octet) : Statement (.cWrite b) := nofun

theorem cCmode : Statement .cCmode := nofun

theorem cFlush : Statement .cFlush := nofun

theorem cReset : Statement .cReset := nofun

theorem cPop : Statement .cPop := nofun

theorem dWrite (b : Octet) : Statement (.dWrite b) := nofun

theorem dReset : Statement .dReset := nofun

theorem dPop : Statement .dPop := nofun

theorem v14Char (d : Octet) (stops : Nat) (now : Nat) : Statement (.v14Char d stops now) := nofun

theorem odp (parity : Bool) (stops : Nat) (now : Nat) : Statement (.odp parity stops now) := nofun

theorem adp (now : Nat) : Statement (.adp now) := nofun

theorem flag (now : Nat) : Statement (.flag now) := nofun

theorem abort (ones : Nat) (now : Nat) : Statement (.abort ones now) := nofun

theorem frame (octets : List Octet) (now : Nat) : Statement (.frame octets now) := nofun

theorem iFrame (addr : Octet) (ns nr : SeqNum) (p : Bool) (info : List Octet) (now : Nat) : Statement (.iFrame addr ns nr p info now) :=
  nofun

theorem rr (addr : Octet) (nr : SeqNum) (pf : Bool) (now : Nat) : Statement (.rr addr nr pf now) := nofun

theorem rnr (addr : Octet) (nr : SeqNum) (pf : Bool) (now : Nat) : Statement (.rnr addr nr pf now) := nofun

theorem rej (addr : Octet) (nr : SeqNum) (pf : Bool) (now : Nat) : Statement (.rej addr nr pf now) := nofun

theorem srej (addr : Octet) (nr : SeqNum) (pf : Bool) (now : Nat) : Statement (.srej addr nr pf now) := nofun

theorem sOther (addr code : Octet) (nr : SeqNum) (pf : Bool) (now : Nat) : Statement (.sOther addr code nr pf now) :=
  nofun

theorem sabme (addr : Octet) (pf : Bool) (now : Nat) : Statement (.sabme addr pf now) := nofun

theorem disc (addr : Octet) (pf : Bool) (now : Nat) : Statement (.disc addr pf now) := nofun

theorem ua (addr : Octet) (pf : Bool) (now : Nat) : Statement (.ua addr pf now) := nofun

theorem xid (addr : Octet) (pf : Bool) (info : List Octet) (now : Nat) : Statement (.xid addr pf info now) := nofun

theorem uOther (addr code : Octet) (pf : Bool) (now : Nat) : Statement (.uOther addr code pf now) := nofun

theorem xidFi (addr : Octet) (pf : Bool) (now : Nat) : Statement (.xidFi addr pf now) := nofun

theorem xidGroupPublic (addr : Octet) (pf : Bool) (content : List Octet) (now : Nat) : Statement (.xidGroupPublic addr pf content now) :=
  nofun

theorem xidGroupPrivate (addr : Octet) (pf : Bool) (content : List Octet) (now : Nat) : Statement (.xidGroupPrivate addr pf content now) :=
  nofun

theorem xidGroupUserdata (addr : Octet) (pf : Bool) (content : List Octet) (now : Nat) : Statement (.xidGroupUserdata addr pf content now) :=
  nofun

theorem xidParamTxsize (addr : Octet) (pf : Bool) (pv : List Octet) (now : Nat) : Statement (.xidParamTxsize addr pf pv now) :=
  nofun

theorem xidParamWindow (addr : Octet) (pf : Bool) (pv : List Octet) (now : Nat) : Statement (.xidParamWindow addr pf pv now) :=
  nofun

theorem xidParamCompreq (addr : Octet) (pf : Bool) (pv : List Octet) (now : Nat) : Statement (.xidParamCompreq addr pf pv now) :=
  nofun

theorem tData (b : Octet) : Statement (.tData b) := nofun

theorem ecm : Statement .ecm := nofun

theorem eid : Statement .eid := nofun

theorem tReset : Statement .tReset := nofun

theorem tBadcmd (cmd : Octet) : Statement (.tBadcmd cmd) := nofun

theorem cwEtm : Statement .cwEtm := nofun

theorem cwFlush : Statement .cwFlush := nofun

theorem cwStepup : Statement .cwStepup := nofun

theorem cwData (w : Nat) : Statement (.cwData w) := nofun

end Sys2Proof.Laws.Presented
end

