-- ==== Sys2Proof/Laws/State.lean ====
section
/-!
SUPPORT. One lemma for each field of State and each update of Machine/Ops.lean.
-/

namespace Sys2Proof.Machine

variable (s : State)

/-! ### State.setV -/

@[simp] theorem State.setV_v (x : V14) : (s.setV x).v = x := rfl
@[simp] theorem State.setV_h (x : V14) : (s.setV x).h = s.h := rfl
@[simp] theorem State.setV_l (x : V14) : (s.setV x).l = s.l := rfl
@[simp] theorem State.setV_c (x : V14) : (s.setV x).c = s.c := rfl
@[simp] theorem State.setV_d (x : V14) : (s.setV x).d = s.d := rfl
@[simp] theorem State.setV_written (x : V14) : (s.setV x).written = s.written := rfl
@[simp] theorem State.setV_cfg (x : V14) : (s.setV x).cfg = s.cfg := rfl
@[simp] theorem State.setV_source (x : V14) : (s.setV x).source = s.source := rfl
@[simp] theorem State.setV_sink (x : V14) : (s.setV x).sink = s.sink := rfl
@[simp] theorem State.setV_trace (x : V14) : (s.setV x).trace = s.trace := rfl
@[simp] theorem State.setV_result (x : V14) : (s.setV x).result = s.result := rfl
@[simp] theorem State.setV_input (x : V14) : (s.setV x).input = s.input := rfl

/-! ### State.setH -/

@[simp] theorem State.setH_v (x : Hdlc) : (s.setH x).v = s.v := rfl
@[simp] theorem State.setH_h (x : Hdlc) : (s.setH x).h = x := rfl
@[simp] theorem State.setH_l (x : Hdlc) : (s.setH x).l = s.l := rfl
@[simp] theorem State.setH_c (x : Hdlc) : (s.setH x).c = s.c := rfl
@[simp] theorem State.setH_d (x : Hdlc) : (s.setH x).d = s.d := rfl
@[simp] theorem State.setH_written (x : Hdlc) : (s.setH x).written = s.written := rfl
@[simp] theorem State.setH_cfg (x : Hdlc) : (s.setH x).cfg = s.cfg := rfl
@[simp] theorem State.setH_source (x : Hdlc) : (s.setH x).source = s.source := rfl
@[simp] theorem State.setH_sink (x : Hdlc) : (s.setH x).sink = s.sink := rfl
@[simp] theorem State.setH_trace (x : Hdlc) : (s.setH x).trace = s.trace := rfl
@[simp] theorem State.setH_result (x : Hdlc) : (s.setH x).result = s.result := rfl
@[simp] theorem State.setH_input (x : Hdlc) : (s.setH x).input = s.input := rfl

/-! ### State.setL -/

@[simp] theorem State.setL_v (x : Lapm) : (s.setL x).v = s.v := rfl
@[simp] theorem State.setL_h (x : Lapm) : (s.setL x).h = s.h := rfl
@[simp] theorem State.setL_l (x : Lapm) : (s.setL x).l = x := rfl
@[simp] theorem State.setL_c (x : Lapm) : (s.setL x).c = s.c := rfl
@[simp] theorem State.setL_d (x : Lapm) : (s.setL x).d = s.d := rfl
@[simp] theorem State.setL_written (x : Lapm) : (s.setL x).written = s.written := rfl
@[simp] theorem State.setL_cfg (x : Lapm) : (s.setL x).cfg = s.cfg := rfl
@[simp] theorem State.setL_source (x : Lapm) : (s.setL x).source = s.source := rfl
@[simp] theorem State.setL_sink (x : Lapm) : (s.setL x).sink = s.sink := rfl
@[simp] theorem State.setL_trace (x : Lapm) : (s.setL x).trace = s.trace := rfl
@[simp] theorem State.setL_result (x : Lapm) : (s.setL x).result = s.result := rfl
@[simp] theorem State.setL_input (x : Lapm) : (s.setL x).input = s.input := rfl

/-! ### State.setC -/

@[simp] theorem State.setC_v (x : Comp) : (s.setC x).v = s.v := rfl
@[simp] theorem State.setC_h (x : Comp) : (s.setC x).h = s.h := rfl
@[simp] theorem State.setC_l (x : Comp) : (s.setC x).l = s.l := rfl
@[simp] theorem State.setC_c (x : Comp) : (s.setC x).c = x := rfl
@[simp] theorem State.setC_d (x : Comp) : (s.setC x).d = s.d := rfl
@[simp] theorem State.setC_written (x : Comp) : (s.setC x).written = s.written := rfl
@[simp] theorem State.setC_cfg (x : Comp) : (s.setC x).cfg = s.cfg := rfl
@[simp] theorem State.setC_source (x : Comp) : (s.setC x).source = s.source := rfl
@[simp] theorem State.setC_sink (x : Comp) : (s.setC x).sink = s.sink := rfl
@[simp] theorem State.setC_trace (x : Comp) : (s.setC x).trace = s.trace := rfl
@[simp] theorem State.setC_result (x : Comp) : (s.setC x).result = s.result := rfl
@[simp] theorem State.setC_input (x : Comp) : (s.setC x).input = s.input := rfl

/-! ### State.setD -/

@[simp] theorem State.setD_v (x : Decomp) : (s.setD x).v = s.v := rfl
@[simp] theorem State.setD_h (x : Decomp) : (s.setD x).h = s.h := rfl
@[simp] theorem State.setD_l (x : Decomp) : (s.setD x).l = s.l := rfl
@[simp] theorem State.setD_c (x : Decomp) : (s.setD x).c = s.c := rfl
@[simp] theorem State.setD_d (x : Decomp) : (s.setD x).d = x := rfl
@[simp] theorem State.setD_written (x : Decomp) : (s.setD x).written = s.written := rfl
@[simp] theorem State.setD_cfg (x : Decomp) : (s.setD x).cfg = s.cfg := rfl
@[simp] theorem State.setD_source (x : Decomp) : (s.setD x).source = s.source := rfl
@[simp] theorem State.setD_sink (x : Decomp) : (s.setD x).sink = s.sink := rfl
@[simp] theorem State.setD_trace (x : Decomp) : (s.setD x).trace = s.trace := rfl
@[simp] theorem State.setD_result (x : Decomp) : (s.setD x).result = s.result := rfl
@[simp] theorem State.setD_input (x : Decomp) : (s.setD x).input = s.input := rfl

/-! ### State.setWritten -/

@[simp] theorem State.setWritten_v (x : Written) : (s.setWritten x).v = s.v := rfl
@[simp] theorem State.setWritten_h (x : Written) : (s.setWritten x).h = s.h := rfl
@[simp] theorem State.setWritten_l (x : Written) : (s.setWritten x).l = s.l := rfl
@[simp] theorem State.setWritten_c (x : Written) : (s.setWritten x).c = s.c := rfl
@[simp] theorem State.setWritten_d (x : Written) : (s.setWritten x).d = s.d := rfl
@[simp] theorem State.setWritten_written (x : Written) : (s.setWritten x).written = x := rfl
@[simp] theorem State.setWritten_cfg (x : Written) : (s.setWritten x).cfg = s.cfg := rfl
@[simp] theorem State.setWritten_source (x : Written) : (s.setWritten x).source = s.source := rfl
@[simp] theorem State.setWritten_sink (x : Written) : (s.setWritten x).sink = s.sink := rfl
@[simp] theorem State.setWritten_trace (x : Written) : (s.setWritten x).trace = s.trace := rfl
@[simp] theorem State.setWritten_result (x : Written) : (s.setWritten x).result = s.result := rfl
@[simp] theorem State.setWritten_input (x : Written) : (s.setWritten x).input = s.input := rfl

/-! ### State.setSource -/

@[simp] theorem State.setSource_v (x : List Octet) : (s.setSource x).v = s.v := rfl
@[simp] theorem State.setSource_h (x : List Octet) : (s.setSource x).h = s.h := rfl
@[simp] theorem State.setSource_l (x : List Octet) : (s.setSource x).l = s.l := rfl
@[simp] theorem State.setSource_c (x : List Octet) : (s.setSource x).c = s.c := rfl
@[simp] theorem State.setSource_d (x : List Octet) : (s.setSource x).d = s.d := rfl
@[simp] theorem State.setSource_written (x : List Octet) : (s.setSource x).written = s.written := rfl
@[simp] theorem State.setSource_cfg (x : List Octet) : (s.setSource x).cfg = s.cfg := rfl
@[simp] theorem State.setSource_source (x : List Octet) : (s.setSource x).source = x := rfl
@[simp] theorem State.setSource_sink (x : List Octet) : (s.setSource x).sink = s.sink := rfl
@[simp] theorem State.setSource_trace (x : List Octet) : (s.setSource x).trace = s.trace := rfl
@[simp] theorem State.setSource_result (x : List Octet) : (s.setSource x).result = s.result := rfl
@[simp] theorem State.setSource_input (x : List Octet) : (s.setSource x).input = s.input := rfl

/-! ### State.sinkWrite -/

@[simp] theorem State.sinkWrite_v (b : Octet) : (s.sinkWrite b).v = s.v := rfl
@[simp] theorem State.sinkWrite_h (b : Octet) : (s.sinkWrite b).h = s.h := rfl
@[simp] theorem State.sinkWrite_l (b : Octet) : (s.sinkWrite b).l = s.l := rfl
@[simp] theorem State.sinkWrite_c (b : Octet) : (s.sinkWrite b).c = s.c := rfl
@[simp] theorem State.sinkWrite_d (b : Octet) : (s.sinkWrite b).d = s.d := rfl
@[simp] theorem State.sinkWrite_written (b : Octet) : (s.sinkWrite b).written = s.written := rfl
@[simp] theorem State.sinkWrite_cfg (b : Octet) : (s.sinkWrite b).cfg = s.cfg := rfl
@[simp] theorem State.sinkWrite_source (b : Octet) : (s.sinkWrite b).source = s.source := rfl
@[simp] theorem State.sinkWrite_sink (b : Octet) : (s.sinkWrite b).sink = s.sink ++ [b] := rfl
@[simp] theorem State.sinkWrite_trace (b : Octet) : (s.sinkWrite b).trace = s.trace := rfl
@[simp] theorem State.sinkWrite_result (b : Octet) : (s.sinkWrite b).result = s.result := rfl
@[simp] theorem State.sinkWrite_input (b : Octet) : (s.sinkWrite b).input = s.input := rfl

/-! ### State.log -/

@[simp] theorem State.log_v (es : List Event) : (s.log es).v = s.v := rfl
@[simp] theorem State.log_h (es : List Event) : (s.log es).h = s.h := rfl
@[simp] theorem State.log_l (es : List Event) : (s.log es).l = s.l := rfl
@[simp] theorem State.log_c (es : List Event) : (s.log es).c = s.c := rfl
@[simp] theorem State.log_d (es : List Event) : (s.log es).d = s.d := rfl
@[simp] theorem State.log_written (es : List Event) : (s.log es).written = s.written := rfl
@[simp] theorem State.log_cfg (es : List Event) : (s.log es).cfg = s.cfg := rfl
@[simp] theorem State.log_source (es : List Event) : (s.log es).source = s.source := rfl
@[simp] theorem State.log_sink (es : List Event) : (s.log es).sink = s.sink := rfl
@[simp] theorem State.log_trace (es : List Event) : (s.log es).trace = s.trace ++ es := rfl
@[simp] theorem State.log_result (es : List Event) : (s.log es).result = s.result := rfl
@[simp] theorem State.log_input (es : List Event) : (s.log es).input = s.input := rfl

/-! ### State.answer -/

@[simp] theorem State.answer_v (r : Result) : (s.answer r).v = s.v := rfl
@[simp] theorem State.answer_h (r : Result) : (s.answer r).h = s.h := rfl
@[simp] theorem State.answer_l (r : Result) : (s.answer r).l = s.l := rfl
@[simp] theorem State.answer_c (r : Result) : (s.answer r).c = s.c := rfl
@[simp] theorem State.answer_d (r : Result) : (s.answer r).d = s.d := rfl
@[simp] theorem State.answer_written (r : Result) : (s.answer r).written = s.written := rfl
@[simp] theorem State.answer_cfg (r : Result) : (s.answer r).cfg = s.cfg := rfl
@[simp] theorem State.answer_source (r : Result) : (s.answer r).source = s.source := rfl
@[simp] theorem State.answer_sink (r : Result) : (s.answer r).sink = s.sink := rfl
@[simp] theorem State.answer_trace (r : Result) : (s.answer r).trace = s.trace := rfl
@[simp] theorem State.answer_result (r : Result) : (s.answer r).result = r := rfl
@[simp] theorem State.answer_input (r : Result) : (s.answer r).input = s.input := rfl

/-! ### State.setInput -/

@[simp] theorem State.setInput_v (i : List Input) : (s.setInput i).v = s.v := rfl
@[simp] theorem State.setInput_h (i : List Input) : (s.setInput i).h = s.h := rfl
@[simp] theorem State.setInput_l (i : List Input) : (s.setInput i).l = s.l := rfl
@[simp] theorem State.setInput_c (i : List Input) : (s.setInput i).c = s.c := rfl
@[simp] theorem State.setInput_d (i : List Input) : (s.setInput i).d = s.d := rfl
@[simp] theorem State.setInput_written (i : List Input) : (s.setInput i).written = s.written := rfl
@[simp] theorem State.setInput_cfg (i : List Input) : (s.setInput i).cfg = s.cfg := rfl
@[simp] theorem State.setInput_source (i : List Input) : (s.setInput i).source = s.source := rfl
@[simp] theorem State.setInput_sink (i : List Input) : (s.setInput i).sink = s.sink := rfl
@[simp] theorem State.setInput_trace (i : List Input) : (s.setInput i).trace = s.trace := rfl
@[simp] theorem State.setInput_result (i : List Input) : (s.setInput i).result = s.result := rfl
@[simp] theorem State.setInput_input (i : List Input) : (s.setInput i).input = i := rfl

end Sys2Proof.Machine
end

