-- ==== Sys2Proof/Laws/Stream.lean ====
section
/-!
SUPPORT. What the bit output of C does to the codeword stream (44_compressor.md R191, R200; 20_memory.md R34).
-/

namespace Sys2Proof.Machine

@[simp] theorem lowBits_length (n w : Nat) : (lowBits n w).length = n := by simp [lowBits]

/-- R34: the low eight bits of a number are an octet's bits, the others those of the number shifted down. -/
theorem lowBits_eight_add (n w : Nat) : lowBits (8 + n) w = octetBits (BitVec.ofNat 8 w) ++ lowBits n (w >>> 8) := by
  have h8 : (List.range 8).map w.testBit = octetBits (BitVec.ofNat 8 w) := by
    simp only [octetBits, BitVec.getLsbD_ofNat]
    rfl
  rw [lowBits, List.range_add, List.map_append, h8, List.map_map]
  congr 1
  refine List.map_congr_left fun k _ => ?_
  simp [Nat.testBit_shiftRight]

/-- R34: bits put above `m` bits follow them. -/
theorem lowBits_or_shiftLeft (m n a w : Nat) (ha : a < 2 ^ m) :
    lowBits (m + n) (a ||| w <<< m) = lowBits m a ++ lowBits n w := by
  rw [lowBits, List.range_add, List.map_append, List.map_map]
  congr 1
  · refine List.map_congr_left fun k hk => ?_
    have : k < m := List.mem_range.1 hk
    simp [Nat.testBit_or, Nat.testBit_shiftLeft, Nat.not_le.2 this]
  · refine List.map_congr_left fun k _ => ?_
    simp [Nat.testBit_or, Nat.testBit_shiftLeft, Nat.testBit_lt_two_pow (lt_of_lt_of_le ha (Nat.pow_le_pow_right two_pos (Nat.le_add_right m k)))]

/-- R191: moving whole octets to the queue keeps the stream, and leaves fewer than eight bits pending. -/
theorem Comp.drain_streamBits (fuel : Nat) (c : Comp) (hf : c.bitCnt ≤ fuel) (hb : c.bitBuf < 2 ^ c.bitCnt) :
    (Comp.drain fuel c).streamBits = c.streamBits ∧ (Comp.drain fuel c).bitCnt ≤ 7
    ∧ (Comp.drain fuel c).bitBuf < 2 ^ (Comp.drain fuel c).bitCnt
    ∧ Comp.drain fuel c = { c with
        bitBuf := (Comp.drain fuel c).bitBuf, bitCnt := (Comp.drain fuel c).bitCnt, out := (Comp.drain fuel c).out } := by
  induction fuel generalizing c with
  | zero => exact ⟨rfl, by simp only [Comp.drain]; omega, hb, rfl⟩
  | succ n ih =>
    unfold Comp.drain
    split
    · rename_i h8
      obtain ⟨k, hk⟩ := Nat.exists_eq_add_of_le h8
      have hlt : c.bitBuf >>> 8 < 2 ^ (c.bitCnt - 8) := by
        rw [Nat.shiftRight_eq_div_pow, Nat.div_lt_iff_lt_mul (by norm_num), ← pow_add]
        rwa [Nat.sub_add_cancel h8]
      obtain ⟨h1, h2, h3, h4⟩ := ih
        { c with out := c.out ++ [BitVec.ofNat 8 c.bitBuf], bitBuf := c.bitBuf >>> 8, bitCnt := c.bitCnt - 8 }
        (by show c.bitCnt - 8 ≤ n; omega) hlt
      refine ⟨?_, h2, h3, h4⟩
      rw [h1]
      simp only [Comp.streamBits, octetsBits_append, octetsBits_cons, octetsBits_nil, List.append_nil, List.append_assoc]
      rw [hk, lowBits_eight_add, Nat.add_sub_cancel_left]
    · exact ⟨rfl, by omega, hb, rfl⟩

/-- R191: `PutCodeword(w)` puts the bits of `w`, low bit first, behind the stream; of C only the output changes. -/
theorem Comp.putCodeword_streamBits (c : Comp) (w : Nat) (hb : c.bitBuf < 2 ^ c.bitCnt)
    (hw : w < 2 ^ c.base.codeWordSize) :
    (c.putCodeword w).streamBits = c.streamBits ++ lowBits c.base.codeWordSize w ∧ (c.putCodeword w).bitCnt ≤ 7
    ∧ (c.putCodeword w).bitBuf < 2 ^ (c.putCodeword w).bitCnt
    ∧ c.putCodeword w = { c with
        bitBuf := (c.putCodeword w).bitBuf, bitCnt := (c.putCodeword w).bitCnt, out := (c.putCodeword w).out } := by
  have hlt : c.bitBuf ||| w <<< c.bitCnt < 2 ^ (c.bitCnt + c.base.codeWordSize) := by
    refine Nat.or_lt_two_pow (lt_of_lt_of_le hb (Nat.pow_le_pow_right two_pos (Nat.le_add_right _ _))) ?_
    rw [Nat.shiftLeft_eq, pow_add, mul_comm]
    exact Nat.mul_lt_mul_of_pos_left hw (by positivity)
  obtain ⟨h1, h2, h3, h4⟩ := Comp.drain_streamBits (c.bitCnt + c.base.codeWordSize)
    { c with bitBuf := c.bitBuf ||| w <<< c.bitCnt, bitCnt := c.bitCnt + c.base.codeWordSize } le_rfl hlt
  refine ⟨?_, h2, h3, h4⟩
  refine h1.trans ?_
  simp only [Comp.streamBits, lowBits_or_shiftLeft _ _ _ _ hb, List.append_assoc]

/-- R200: `Pad()` completes the octet in part with 0s; of C only the output changes. -/
theorem Comp.pad_streamBits (c : Comp) (h7 : c.bitCnt ≤ 7) (hb : c.bitBuf < 2 ^ c.bitCnt) :
    c.pad.streamBits = c.streamBits ++ List.replicate ((8 - c.bitCnt) % 8) false
    ∧ c.pad = { c with bitBuf := 0, bitCnt := 0, out := c.pad.out } := by
  unfold Comp.pad
  split
  · rename_i h0
    have hm : (8 - c.bitCnt) % 8 = 8 - c.bitCnt := Nat.mod_eq_of_lt (by omega)
    have hl : lowBits 8 c.bitBuf = lowBits c.bitCnt c.bitBuf ++ List.replicate (8 - c.bitCnt) false := by
      have := lowBits_or_shiftLeft c.bitCnt (8 - c.bitCnt) c.bitBuf 0 hb
      rw [Nat.add_sub_cancel' (by omega : c.bitCnt ≤ 8)] at this
      have hz : lowBits (8 - c.bitCnt) 0 = List.replicate (8 - c.bitCnt) false := by
        simp [lowBits, List.eq_replicate_iff]
      simpa [hz] using this
    have ho : octetBits (BitVec.ofNat 8 c.bitBuf) = lowBits 8 c.bitBuf := by
      have := lowBits_eight_add 0 c.bitBuf
      simpa [lowBits] using this.symm
    refine ⟨?_, rfl⟩
    simp only [Comp.streamBits, octetsBits_append, octetsBits_cons, octetsBits_nil, List.append_nil, ho, hl, hm,
      List.append_assoc]
    simp [lowBits]
  · rename_i h0
    have hc : c.bitCnt = 0 := by omega
    have hz : c.bitBuf = 0 := by simpa [hc] using hb
    refine ⟨by simp [hc], ?_⟩
    cases c
    simp_all

end Sys2Proof.Machine
end

