-- ==== Sys2Proof/Tests/Slice0.lean ====
section
/-!
SUPPORT. The model's own tests: the smoke test of WellFormed, the decoding of words written out from the spec, one step of
each instruction against the test vectors of 95_test_vectors.md, and for every statement with hypotheses a state and
operands that meet them.
-/

namespace Sys2Proof.Tests.Slice0

open Sys2Proof.Machine

-- one theorem at a time: a thread for each would exceed the memory of the check
set_option Elab.async false

/-- The state after an instruction; the machine before its reset where there is none. -/
def after (i : Instr) (s : State) : State :=
  match exec i s with
  | .next t => t
  | _ => State.beforeReset Params.defaults

/-- The machine after reset, under the default parameters. -/
def start : State := State.reset

/-- Phase Connected right after reset. -/
def connected : State := { start with l := { start.l with phase := .connected } }

/-- The default parameters. -/
abbrev dp : Params := Params.defaults

/-! ### WellFormed refuses -/

/-- R53: a character has one or more stop bits. -/
theorem test_ill_formed_char_without_stop :
    wellFormed dp (.v14Char 0x41 0 0) = false := by decide +kernel

/-- R66: DC1 with nine stop bits is ODP. -/
theorem test_ill_formed_char_that_is_odp :
    wellFormed dp (.v14Char 0x11 9 0) = false := by decide +kernel

/-- R66: ODP has 9 or 17 stop bits. -/
theorem test_ill_formed_odp_stop_bits :
    wellFormed dp (.odp true 8 0) = false := by decide +kernel

/-- R105: an abort is seven or more 1s. -/
theorem test_ill_formed_abort_of_six :
    wellFormed dp (.abort 6 0) = false := by decide +kernel

/-- R54: the shortest frame has four octets. -/
theorem test_ill_formed_frame_of_three :
    wellFormed dp (.frame [1, 2, 3] 0) = false := by decide +kernel

/-- R57: an S code has bits 1..0 = 01. -/
theorem test_ill_formed_sother_class :
    wellFormed dp (.sOther 1 0x13 0 false 0) = false := by decide +kernel

/-- R57: RR is no other S code. -/
theorem test_ill_formed_sother_known :
    wellFormed dp (.sOther 1 0x01 0 false 0) = false := by decide +kernel

/-- R58: a U code has bits 1..0 = 11. -/
theorem test_ill_formed_uother_class :
    wellFormed dp (.uOther 1 0x0D false 0) = false := by decide +kernel

/-- R58: a code has the P/F bit masked. -/
theorem test_ill_formed_uother_poll :
    wellFormed dp (.uOther 1 0x1F false 0) = false := by decide +kernel

/-- R58: UA is no other U code. -/
theorem test_ill_formed_uother_known :
    wellFormed dp (.uOther 1 0x63 false 0) = false := by decide +kernel

/-- R61: EID is a command. -/
theorem test_ill_formed_badcmd_known :
    wellFormed dp (.tBadcmd 1) = false := by decide +kernel

/-- R62: STEPUP is no data codeword. -/
theorem test_ill_formed_codeword_control :
    wellFormed dp (.cwData 2) = false := by decide +kernel

/-- R62: a codeword has at most 16 bits. -/
theorem test_ill_formed_codeword_width :
    wellFormed dp (.cwData 65536) = false := by decide +kernel

/-- R60: a group's length is two octets. -/
theorem test_ill_formed_xid_group_public :
    wellFormed dp (.xidGroupPublic 1 false (List.replicate 65536 0) 0) = false := by
  rw [wellFormed, List.length_replicate]; rfl

/-- R60: a group's length is two octets. -/
theorem test_ill_formed_xid_group_private :
    wellFormed dp (.xidGroupPrivate 1 false (List.replicate 65536 0) 0) = false := by
  rw [wellFormed, List.length_replicate]; rfl

/-- R60: a group's length is two octets. -/
theorem test_ill_formed_xid_group_userdata :
    wellFormed dp (.xidGroupUserdata 1 false (List.replicate 65536 0) 0) = false := by
  rw [wellFormed, List.length_replicate]; rfl

/-- R60: a parameter's length is one octet. -/
theorem test_ill_formed_xid_txsize :
    wellFormed dp (.xidParamTxsize 1 false (List.replicate 256 0) 0) = false := by
  rw [wellFormed, List.length_replicate]; rfl

/-- R60: a parameter's length is one octet. -/
theorem test_ill_formed_xid_window :
    wellFormed dp (.xidParamWindow 1 false (List.replicate 256 0) 0) = false := by
  rw [wellFormed, List.length_replicate]; rfl

/-- R60: a parameter's length is one octet. -/
theorem test_ill_formed_xid_compreq :
    wellFormed dp (.xidParamCompreq 1 false (List.replicate 256 0) 0) = false := by
  rw [wellFormed, List.length_replicate]; rfl

/-- The defaults of R4 are allowed; a dictionary that is no power of two is not. -/
theorem test_parameters_well_formed :
    dp.wf = true ∧ { dp with maxCodeWords := 1000 }.wf = false := by decide +kernel

/-! ### Decoding: one word for each row, written out from its encoding -/

/-- R52: opsel 10 to 17; the operands low octet first. -/
theorem test_decode_unit_v :
    decode dp (.op [0x10, 0x2C, 0x01]) = .ok (.v14Setsb 300)
    ∧ decode dp (.op [0x11, 0x41]) = .ok (.v14Tx 0x41)
    ∧ decode dp (.op [0x12]) = .ok .v14Flush
    ∧ decode dp (.op [0x13, 0x8A]) = .ok (.v14Rx 0x8A)
    ∧ decode dp (.op [0x14]) = .ok .v14Rsb
    ∧ decode dp (.op [0x15]) = .ok .v14Pop
    ∧ decode dp (.op [0x16]) = .ok .v14Reset
    ∧ decode dp (.op [0x17, 1]) = .ok (.v14Rxbit true) := by decide +kernel

/-- R52: opsel 20 to 25. -/
theorem test_decode_unit_h :
    decode dp (.op [0x20, 0x03, 0x73]) = .ok (.hCrc16 [0x03, 0x73])
    ∧ decode dp (.op [0x21, 0xFF, 0xFF]) = .ok (.hSendframe [0xFF, 0xFF])
    ∧ decode dp (.op [0x22]) = .ok .hSendflag
    ∧ decode dp (.op [0x23, 0]) = .ok (.hRxbit false)
    ∧ decode dp (.op [0x24]) = .ok .hPop
    ∧ decode dp (.op [0x25]) = .ok .hReset := by decide +kernel

/-- R52: opsel 30 to 32. -/
theorem test_decode_unit_l :
    decode dp (.op [0x30, 1, 250]) = .ok (.lRxbit true 250)
    ∧ decode dp (.op [0x31, 0xE8, 0x03]) = .ok (.lTxbit 1000)
    ∧ decode dp (.op [0x32]) = .ok .lReset := by decide +kernel

/-- R52: opsel 40 to 44. -/
theorem test_decode_unit_c :
    decode dp (.op [0x40, 0x61]) = .ok (.cWrite 0x61)
    ∧ decode dp (.op [0x41]) = .ok .cCmode
    ∧ decode dp (.op [0x42]) = .ok .cFlush
    ∧ decode dp (.op [0x43]) = .ok .cReset
    ∧ decode dp (.op [0x44]) = .ok .cPop := by decide +kernel

/-- R52: opsel 50 to 52. -/
theorem test_decode_unit_d :
    decode dp (.op [0x50, 0x33]) = .ok (.dWrite 0x33)
    ∧ decode dp (.op [0x51]) = .ok .dReset
    ∧ decode dp (.op [0x52]) = .ok .dPop := by decide +kernel

/-- R53: 0x41 with one stop bit is 0 10000010 1. -/
theorem test_decode_v14_char :
    decode dp (.line
      [false, true, false, false, false, false, false, true, false, true] 5)
      = .ok (.v14Char 0x41 1 5) := by decide +kernel

/-- R66: 0x91 with nine stop bits is 0 10001001 and nine 1s. -/
theorem test_decode_odp :
    decode dp (.line
      [false, true, false, false, false, true, false, false, true, true, true, true, true, true, true, true, true,
      true] 5)
      = .ok (.odp true 9 5) := by decide +kernel

/-- R66: the row's 36 bits. -/
theorem test_decode_adp :
    decode dp (.line
      [false, true, false, true, false, false, false, true, false, true, true, true, true, true, true, true, true,
      true, false, true, true, false, false, false, false, true, false, true, true, true, true, true, true, true,
      true, true] 5)
      = .ok (.adp 5) := by decide +kernel

/-- R32: 0x7E is 0,1,1,1,1,1,1,0. -/
theorem test_decode_flag :
    decode dp (.line
      [false, true, true, true, true, true, true, false] 5)
      = .ok (.flag 5) := by decide +kernel

/-- R105: seven 1s. -/
theorem test_decode_abort :
    decode dp (.line
      [true, true, true, true, true, true, true] 5)
      = .ok (.abort 7 5) := by decide +kernel

/-- T22: the bits of 7E 03 73 33 64 7E. -/
theorem test_decode_frame :
    decode dp (.line
      [false, true, true, true, true, true, true, false, true, true, false, false, false, false, false, false,
      true, true, false, false, true, true, true, false, true, true, false, false, true, true, false, false,
      false, false, true, false, false, true, true, false, false, true, true, true, true, true, true, false] 5)
      = .ok (.frame [0x03, 0x73, 0x33, 0x64] 5) := by decide +kernel

/-- E1: 32 ones with six inserted zeros between two flags. -/
theorem test_decode_stuffed_frame :
    decode dp (.line
      [false, true, true, true, true, true, true, false, true, true, true, true, true, false, true, true, true,
      true, true, false, true, true, true, true, true, false, true, true, true, true, true, false, true, true,
      true, true, true, false, true, true, true, true, true, false, true, true, false, true, true, true, true,
      true, true, false] 5)
      = .ok (.frame [0xFF, 0xFF, 0xFF, 0xFF] 5) := by decide +kernel

/-- R56: octet 1 is NS << 1, octet 2 is NR << 1 | P. -/
theorem test_decode_ctl_i :
    decode dp (.frame [0x01, 0x04, 0x07, 0x21] 5) = .ok (.iFrame 0x01 2 3 true [0x21] 5) := by decide +kernel

/-- R57: the codes 01, 05, 09, 0D, and another; octet 2 is NR << 1 | PF. -/
theorem test_decode_ctl_s :
    decode dp (.frame [0x03, 0x01, 0x05] 5) = .ok (.rr 0x03 2 true 5)
    ∧ decode dp (.frame [0x03, 0x05, 0x04] 5) = .ok (.rnr 0x03 2 false 5)
    ∧ decode dp (.frame [0x03, 0x09, 0x02] 5) = .ok (.rej 0x03 1 false 5)
    ∧ decode dp (.frame [0x01, 0x0D, 0x00] 5) = .ok (.srej 0x01 0 false 5)
    ∧ decode dp (.frame [0x01, 0x11, 0x00] 5) = .ok (.sOther 0x01 0x11 0 false 5) := by decide +kernel

/-- R58: 7F, 53, 73 and BF have P/F = 1; DM is 0F. -/
theorem test_decode_ctl_u :
    decode dp (.frame [0x01, 0x7F] 5) = .ok (.sabme 0x01 true 5)
    ∧ decode dp (.frame [0x01, 0x53] 5) = .ok (.disc 0x01 true 5)
    ∧ decode dp (.frame [0x01, 0x73] 5) = .ok (.ua 0x01 true 5)
    ∧ decode dp (.frame [0x01, 0xBF, 0x82] 5) = .ok (.xid 0x01 true [0x82] 5)
    ∧ decode dp (.frame [0x01, 0x0F] 5) = .ok (.uOther 0x01 0x0F false 5) := by decide +kernel

/-- R132, R142: octets behind an S frame's N(R), and behind the code of a U frame that is no XID, are ignored. -/
theorem test_decode_ignored_octets :
    decode dp (.frame [0x03, 0x01, 0x05, 0x99] 5) = .ok (.rr 0x03 2 true 5)
    ∧ decode dp (.frame [0x01, 0x7F, 0x99, 0x98] 5) = .ok (.sabme 0x01 true 5)
    ∧ decode dp (.frame [0x01, 0x0F, 0x99] 5) = .ok (.uOther 0x01 0x0F false 5) := by decide +kernel

/-- R60: the format identifier, the groups 80, F0 and FF, and the parameters of T36. -/
theorem test_decode_xid_info :
    decode dp (.xidTop 1 true [0x82] 5) = .ok (.xidFi 1 true 5)
    ∧ decode dp (.xidTop 1 true [0x80, 0x00, 0x03, 0x07, 0x01, 0x0F] 5) = .ok (.xidGroupPublic 1 true [0x07, 0x01, 0x0F] 5)
    ∧ decode dp (.xidTop 1 true [0xF0, 0x00, 0x02, 0x99, 0x00] 5) = .ok (.xidGroupPrivate 1 true [0x99, 0x00] 5)
    ∧ decode dp (.xidTop 1 true [0xFF, 0x00, 0x01, 0x55] 5) = .ok (.xidGroupUserdata 1 true [0x55] 5)
    ∧ decode dp (.xidParam 0x80 1 true [0x06, 0x02, 0x02, 0x00] 5) = .ok (.xidParamTxsize 1 true [0x02, 0x00] 5)
    ∧ decode dp (.xidParam 0x80 1 true [0x08, 0x01, 0x08] 5) = .ok (.xidParamWindow 1 true [0x08] 5)
    ∧ decode dp (.xidParam 0xF0 1 true [0x01, 0x01, 0x03] 5) = .ok (.xidParamCompreq 1 true [0x03] 5) := by decide +kernel

/-- R61: a data octet, and the command octets 0, 1, 2 and another. -/
theorem test_decode_stream :
    decode dp (.stream false 0x41) = .ok (.tData 0x41)
    ∧ decode dp (.stream true 0x00) = .ok .ecm
    ∧ decode dp (.stream true 0x01) = .ok .eid
    ∧ decode dp (.stream true 0x02) = .ok .tReset
    ∧ decode dp (.stream true 0x07) = .ok (.tBadcmd 0x07) := by decide +kernel

/-- R62: 0, 1, 2 and a data codeword. -/
theorem test_decode_codewords :
    decode dp (.codeword 0) = .ok .cwEtm
    ∧ decode dp (.codeword 1) = .ok .cwFlush
    ∧ decode dp (.codeword 2) = .ok .cwStepup
    ∧ decode dp (.codeword 259) = .ok (.cwData 259) := by decide +kernel

/-- R51, R52, R60: an unknown selector, a missing operand, a bit that is neither 0 nor 1, a selector alone where an octet is needed, another format identifier. -/
theorem test_decode_refuses :
    decode dp (.op [0x18]) = .error .unknownSelector
    ∧ decode dp (.op [0x11]) = .error .operandCount
    ∧ decode dp (.op [0x17, 2]) = .error .bitRange
    ∧ decode dp (.line [true, false] 0) = .error .notALinePattern
    ∧ decode dp (.xidTop 1 false [0x81] 0) = .error .notAnXidItem := by decide +kernel

/-! ### One step -/

/-- R80: the count is written, and 0 is refused. -/
theorem test_v14Setsb :
    (after (.v14Setsb 9) start).v.txStopBits = 9
    ∧ after (.v14Setsb 0) start = start.answer (.refused .zeroStopBits) := by decide +kernel

/-- T10. -/
theorem test_v14Tx :
    (after (.v14Tx 0x41) start).v.txQueue = [0x82]
    ∧ (after (.v14Tx 0x41) start).v.txCurByte = 0x02 ∧ (after (.v14Tx 0x41) start).v.txBitCount = 2 := by decide +kernel

/-- T10. -/
theorem test_v14Flush :
    (after .v14Flush (after (.v14Tx 0x41) start)).v.txQueue = [0x82, 0xFE]
    ∧ (after .v14Flush start).v.txQueue = [0xFF] := by decide +kernel

/-- T12: the second line octet completes 45. -/
theorem test_v14Rx :
    (after (.v14Rx 0x8A) start).result = .minusOne
    ∧ (after (.v14Rx 0xFE) (after (.v14Rx 0x8A) start)).result = .octet 0x45 := by decide +kernel

/-- R86: the longest run, once. -/
theorem test_v14Rsb :
    (after .v14Rsb (after (.v14Rx 0xFF) start)).result = .nat 8
    ∧ (after .v14Rsb (after (.v14Rx 0xFF) start)).v.maxStopBits = 0 := by decide +kernel

/-- T15: an empty queue is refused. -/
theorem test_v14Pop :
    after .v14Pop start = start.answer (.refused .emptyQueue)
    ∧ (after .v14Pop (after .v14Flush start)).result = .octet 0xFF := by decide +kernel

/-- R88. -/
theorem test_v14Reset :
    (after .v14Reset (after (.v14Tx 0x41) start)).v = start.v := by decide +kernel

/-- R84: a 0 in StopBit is logged when four characters or fewer have passed. -/
theorem test_v14Rxbit :
    (after (.v14Rxbit false) { start with v := { start.v with rxState := .stopBit, missGap := 4 } }).trace = [.stopbitMissing]
    ∧ (after (.v14Rxbit false) { start with v := { start.v with rxState := .stopBit } }).trace = [] := by decide +kernel

/-- T20, E4. -/
theorem test_hCrc16 :
    (after (.hCrc16 [0x31, 0x32, 0x33, 0x34, 0x35, 0x36, 0x37, 0x38, 0x39]) start).result = .word 0x906E
    ∧ (after (.hCrc16 [0x01, 0x7F]) start).result = .word 0x9DEF := by decide +kernel

/-- E1. -/
theorem test_hSendframe :
    (after (.hSendframe [0xFF, 0xFF]) start).h.txBuffer = [0x7E, 0xDF, 0xF7, 0x7D, 0xDF, 0xB7]
    ∧ (after (.hSendframe [0xFF, 0xFF]) start).h.txCur = 0x1F ∧ (after (.hSendframe [0xFF, 0xFF]) start).h.txCnt = 6 := by decide +kernel

/-- R102. -/
theorem test_hSendflag :
    (after .hSendflag start).h.txBuffer = [0x7E] := by decide +kernel

/-- R105: the 0 behind six 1s is a flag, the seventh 1 an abort. -/
theorem test_hRxbit :
    (after (.hRxbit false) { start with h := { start.h with rxOnes := 6, rxFrame := [1, 2] } }).result = .frame [1, 2]
    ∧ (after (.hRxbit true) { start with h := { start.h with rxOnes := 6 } }).trace = [.abort] := by decide +kernel

/-- R108. -/
theorem test_hPop :
    (after .hPop (after .hSendflag start)).result = .octet 0x7E ∧ (after .hPop (after .hSendflag start)).h.txBuffer = [] := by decide +kernel

/-- R107. -/
theorem test_hReset :
    (after .hReset (after .hSendflag start)).h = start.h := by decide +kernel

/-- T38: at 750 units Detection ends, at 749 it does not. -/
theorem test_lRxbit :
    (after (.lRxbit true 749) { start with l := { start.l with phase := .detection } }).l.phase = .detection
    ∧ (after (.lRxbit true 750) { start with l := { start.l with phase := .detection } }).l.phase = .v14 := by decide +kernel

/-- T33, T38: an I-frame, and the keepalive. -/
theorem test_lTxbit :
    (after (.lTxbit 10) { connected with source := [0x4F, 0x4B], l := { connected.l with rxSeqNum := 1 } }).h.txBuffer
        = [0x7E, 0x03, 0x00, 0x02, 0x4F, 0x4B, 0x7A, 0x5E, 0x7E]
    ∧ (after (.lTxbit 6000) { connected with l := { connected.l with inactStart := 5000 } }).h.txBuffer
        = [0x7E, 0x03, 0x01, 0x01, 0xF9, 0x42, 0xFC] := by decide +kernel

/-- R124: the sink and the trace stay. -/
theorem test_lReset :
    after .lReset { connected with sink := [1], trace := [.abort] } = { start with sink := [1], trace := [.abort] } := by decide +kernel

/-- E2: the first 00 is escaped, and the escape code rolls. -/
theorem test_cWrite :
    (after (.cWrite 0x00) start).c.out = [0x00, 0x01] ∧ (after (.cWrite 0x00) start).c.base.escapeCode = 51
    ∧ (after (.cWrite 0x00) start).c.base.curCode = some 3 ∧ (after (.cWrite 0x00) start).c.testCount = 63 := by decide +kernel

/-- T41. -/
theorem test_cCmode :
    (after .cCmode start).c.out = [0x00, 0x00] ∧ (after .cCmode start).c.base.transparent = false
    ∧ (after .cCmode start).c.testCount = 256 := by decide +kernel

/-- R198: FLUSH and padding in compressed mode, nothing in transparent mode. -/
theorem test_cFlush :
    (after .cFlush (after .cCmode start)).c.out = [0x00, 0x00, 0x01, 0x00] ∧ (after .cFlush start).c = start.c := by decide +kernel

/-- R190. -/
theorem test_cReset :
    (after .cReset (after .cCmode start)).c = start.c := by decide +kernel

/-- R199. -/
theorem test_cPop :
    (after .cPop (after (.cWrite 0x41) start)).result = .octet 0x41 := by decide +kernel

/-- R216: the octet behind the escape code is no command. -/
theorem test_dWrite :
    (after (.dWrite 0x41) start).d.out = [0x41]
    ∧ (after (.dWrite 0x03) (after (.dWrite 0x00) start)).d.fault = some (.badCommand 0x03) := by decide +kernel

/-- R210: the fault is cleared. -/
theorem test_dReset :
    (after .dReset { start with d := { start.d with fault := some (.badCodeword 300) } }).d = start.d := by decide +kernel

/-- R224: accepted under a fault. -/
theorem test_dPop :
    (after .dPop { start with d := { start.d with fault := some (.badCodeword 300), out := [7] } }).result = .octet 7 := by decide +kernel

/-- T3A (c): a first character that is no DC1. -/
theorem test_v14Char :
    (after (.v14Char 0x41 1 0) start).l.phase = .v14 ∧ (after (.v14Char 0x41 1 0) start).sink = [0x41] := by decide +kernel

/-- R127: the fourth repetition queues ADP. -/
theorem test_odp :
    (after (.odp true 9 0) start).l.phase = .detection ∧ (after (.odp true 9 0) start).l.odpCount = 1
    ∧ (after (.odp true 9 0)
        { start with
          l := { start.l with phase := .detection, odpCount := 3, lastOdp := some 0x11 }
          v := { start.v with maxStopBits := 17 } }).v.txQueue = [0x8A, 0xFE, 0x1B, 0xFA] := by decide +kernel

/-- R127, T3A (a), (c): the first character is delivered in phase V14; in Detection the count ends. -/
theorem test_adp :
    (after (.adp 0) start).l.phase = .v14 ∧ (after (.adp 0) start).sink = [0x45, 0x43]
    ∧ (after (.adp 0) { start with
        l := { start.l with phase := .detection, odpCount := 2, lastOdp := some 0x11 } }).l.odpCount = 0
    ∧ (after (.adp 0) { start with l := { start.l with phase := .detection, odpCount := 2 } }).l.adpSent = false := by decide +kernel

/-- R129. -/
theorem test_flag :
    (after (.flag 60) { start with l := { start.l with phase := .detection, adpSent := true } }).l.phase = .establish
    ∧ (after (.flag 60) { start with l := { start.l with phase := .detection, adpSent := true } }).l.inactStart = 60 := by decide +kernel

/-- R105: once. -/
theorem test_abort :
    (after (.abort 9 0) connected).trace = [.abort] ∧ (after (.abort 9 0) (after (.abort 7 0) connected)).trace = [.abort] := by decide +kernel

/-- T37: a wrong FCS, and an S frame of four octets. -/
theorem test_frame :
    (after (.frame [1, 1, 0, 0, 0] 0) connected).trace = [.badCrc]
    ∧ (after (.frame [0x01, 0x01, 0x16, 0x07] 0) connected).trace = [.shortFrame] := by decide +kernel

/-- T32. -/
theorem test_iFrame :
    (after (.iFrame 1 0 0 false [0x48, 0x69] 5) connected).sink = [0x48, 0x69]
    ∧ (after (.iFrame 1 0 0 false [0x48, 0x69] 5) connected).h.txBuffer = [0x7E, 0x01, 0x01, 0x02, 0xDA, 0xA6, 0x7E] := by decide +kernel

/-- T32: REJ names the expected number. -/
theorem test_iFrame_out_of_sequence :
    (after (.iFrame 1 2 0 false [0x21] 5) { connected with l := { connected.l with rxSeqNum := 1 } }).h.txBuffer
        = [0x7E, 0x01, 0x09, 0x02, 0x1A, 0x68, 0x7E]
    ∧ (after (.iFrame 1 2 0 false [0x21] 5) { connected with l := { connected.l with rxSeqNum := 1 } }).sink = [] := by decide +kernel

/-- `n` frames outstanding from number `ack` on. -/
def outstanding (ack : SeqNum) (n : Nat) : State :=
  { connected with
    l := { connected.l with
      txSeqAck := ack, txSeqNum := ack + BitVec.ofNat 7 n
      sentIFrames := (List.range n).foldl
        (fun m k => Cells.insert m (ack + BitVec.ofNat 7 k).toNat [3, seqOctet (ack + BitVec.ofNat 7 k) false, 0]) [] } }

/-- T31: across the wrap, and 65 outstanding. -/
theorem test_rr :
    (after (.rr 3 0 false 0) (outstanding 126 4)).l.sentIFrames.map (·.1) = [0, 1]
    ∧ (after (.rr 3 75 false 0) (outstanding 10 65)).trace = [.badNr] := by decide +kernel

/-- R135: an acknowledgement only. -/
theorem test_rnr :
    (after (.rnr 3 2 false 0) (outstanding 0 3)).l.txSeqAck = 2
    ∧ (after (.rnr 3 2 false 0) (outstanding 0 3)).l.sentIFrames = [(2, [3, 4, 0])] := by decide +kernel

/-- T33: the frame goes out again with the new N(R). -/
theorem test_rej :
    (after (.rej 3 1 false 12)
        { connected with
          l := { connected.l with
            txSeqNum := 2, txSeqAck := 1, rxSeqNum := 2, sentIFrames := [(1, [0x03, 0x02, 0x02, 0x41])] } }).h.txBuffer
      = [0x7E, 0x03, 0x02, 0x04, 0x41, 0x46, 0x58, 0x7E] := by decide +kernel

/-- T37. -/
theorem test_srej :
    (after (.srej 1 0 false 0) (outstanding 0 3)) = { outstanding 0 3 with trace := [.unknownCmd] } := by decide +kernel

/-- T37. -/
theorem test_sOther :
    (after (.sOther 1 0x11 0 false 0) connected).trace = [.unknownCmd] := by decide +kernel

/-- R137: UA, and a fresh numbering. -/
theorem test_sabme :
    (after (.sabme 1 true 4) (outstanding 0 3)).l.phase = .connected
    ∧ (after (.sabme 1 true 4) (outstanding 0 3)).l.sentIFrames = []
    ∧ (after (.sabme 1 true 4) (outstanding 0 3)).h.txBuffer = [0x7E, 0x01, 0x73, 0x83, 0x57, 0x7E] := by decide +kernel

/-- R138: UA, and Release. -/
theorem test_disc :
    (after (.disc 1 true 4) connected).l.phase = .release
    ∧ (after (.disc 1 true 4) connected).h.txBuffer = [0x7E, 0x01, 0x73, 0x83, 0x57, 0x7E] := by decide +kernel

/-- T37. -/
theorem test_ua :
    (after (.ua 1 false 0) connected).trace = [.unknownCmd] := by decide +kernel

/-- T34, T36: a size and a window are learned; a group that runs past the field is malformed. -/
theorem test_xid :
    (after (.xid 1 true [0x82, 0x80, 0, 7, 6, 2, 0, 0x18, 8, 1, 2] 1) connected).l.txMaxSize = 3
    ∧ (after (.xid 1 true [0x82, 0x80, 0, 7, 6, 2, 0, 0x18, 8, 1, 2] 1) connected).l.txWindow = 2
    ∧ after (.xid 1 true [0x82, 0x80, 0, 5, 6, 2, 1, 0] 1) connected = { connected with trace := [.xidMalformed] } := by decide +kernel

/-- T37: DM. -/
theorem test_uOther :
    (after (.uOther 1 0x0F false 0) connected).trace = [.unknownCmd] := by decide +kernel

/-- R147: answered with the same field. -/
theorem test_xidFi :
    (after (.xidFi 1 true 0) connected).h = connected.h.sendFrame [1, 0xBF, 0x82] := by decide +kernel

/-- R146: 09 is unknown in the public group. -/
theorem test_xidGroupPublic :
    (after (.xidGroupPublic 1 true [9, 0] 0) connected).trace = [.xidUnknownParam] := by decide +kernel

/-- R146: 99 is unknown in the private group. -/
theorem test_xidGroupPrivate :
    (after (.xidGroupPrivate 1 true [0x99, 0] 0) connected).trace = [.xidUnknownParam] := by decide +kernel

/-- R145: skipped silently. -/
theorem test_xidGroupUserdata :
    (after (.xidGroupUserdata 1 true [0x55] 0) connected).trace = [] := by decide +kernel

/-- T36: 512 bits are 64 octets. -/
theorem test_xidParamTxsize :
    (after (.xidParamTxsize 1 true [2, 0] 0) connected).l.txMaxSize = 64 := by decide +kernel

/-- T36. -/
theorem test_xidParamWindow :
    (after (.xidParamWindow 1 true [8] 0) connected).l.txWindow = 8 := by decide +kernel

/-- T36: the value is zeroed in the response. -/
theorem test_xidParamCompreq :
    (after (.xidParamCompreq 1 true [3] 0) connected).h
      = connected.h.sendFrame [1, 0xBF, 0x82, 0xF0, 0, 3, 1, 1, 0] := by decide +kernel

/-- R212. -/
theorem test_tData :
    (after (.tData 0x41) start).d.out = [0x41] := by decide +kernel

/-- R213: the width is kept. -/
theorem test_ecm :
    (after .ecm { start with d := { start.d with base := { start.d.base with codeWordSize := 10 } } }).d.base.codeWordSize = 10
    ∧ (after .ecm start).d.base.transparent = false ∧ (after .ecm start).d.base.modeTransition = true := by decide +kernel

/-- R214. -/
theorem test_eid :
    (after .eid start).d.out = [0x00] ∧ (after .eid start).d.base.escapeCode = 51 := by decide +kernel

/-- R215: the output stays, the escape code starts again. -/
theorem test_tReset :
    (after .tReset (after .eid start)).d.out = [0x00] ∧ (after .tReset (after .eid start)).d.base.escapeCode = 0 := by decide +kernel

/-- R216. -/
theorem test_tBadcmd :
    (after (.tBadcmd 7) start).d.fault = some (.badCommand 7) ∧ (after (.tBadcmd 7) start).result = .fault (.badCommand 7) := by decide +kernel

/-- R218. -/
theorem test_cwEtm :
    (after .cwEtm (after .ecm start)).d.base.transparent = true := by decide +kernel

/-- R219: the bits left of the octet are dropped. -/
theorem test_cwFlush :
    (after .cwFlush { after .ecm start with d := { (after .ecm start).d with inBuf := 0x5, inCnt := 3 } }).d.inCnt = 0 := by decide +kernel

/-- R220: with 512 codewords the first STEPUP faults. -/
theorem test_cwStepup :
    (after .cwStepup (after .ecm start)).d.base.codeWordSize = 10
    ∧ (after .cwStepup (after .ecm (State.resetWith { dp with maxCodeWords := 512 }))).d.fault = some (.stepupOverflow 9) := by decide +kernel

/-- R221: a root's byte; a free node faults. -/
theorem test_cwData :
    (after (.cwData 100) (after .ecm start)).d.out = [0x61]
    ∧ (after (.cwData 300) (after .ecm start)).d.fault = some (.badCodeword 300) := by decide +kernel

/-- R52: the word of V14.FLUSH, presented to the machine after reset, is run by the next step. -/
theorem test_withFetchWord :
    (match step (start.withFetchWord 8 0x12) with
     | .next t => t.v.txQueue
     | _ => []) = [0xFF] := by decide +kernel

/-! ### Hypotheses that can be met: for each statement of Certificates/Slice0/Obligations.lean a state and operands -/

/-- What an unlisted node reads as. -/
theorem nodeAt_of_nil {x : V42Base} (h : x.node = []) (i : Nat) : x.nodeAt i = Node.atReset i := by
  simp [V42Base.nodeAt, h, Cells.lookup]

/-- A dictionary with no node but the roots, its match empty or a root, meets R22 under the default parameters. -/
theorem rootsOnly_inv {x : V42Base} (hn : x.node = []) (hs : x.codeWordSize = 9) (ht : x.codeWordThreshold = 512)
    (hx : x.nextCodeWord = 259)
    (hm : (x.curCode = none ∧ x.matchLen = 0) ∨ (x.curCode = some 3 ∧ x.matchLen = 1)) : x.inv dp := by
  have hr : ∀ i, 3 ≤ i → i < 259 → (x.nodeAt i).parent = .root := fun i h1 h2 => by
    simp [nodeAt_of_nil hn, Node.atReset, Config.cwReserved, Config.cwFirst, h1, h2]
  have hf : ∀ i, ¬ (3 ≤ i ∧ i < 259) → (x.nodeAt i).parent = .free := fun i h => by
    rw [nodeAt_of_nil hn]
    unfold Node.atReset
    split
    · rename_i hh
      exact absurd hh h
    · rfl
  have hc : ∀ i, (x.nodeAt i).children = [] := fun i => by
    rw [nodeAt_of_nil hn, Node.atReset]; split <;> rfl
  have hl : ∀ i, 3 ≤ i → i < 259 → x.chainLen dp.maxStringLength i = some 1 := fun i h1 h2 => by
    show x.chainLen 32 i = some 1
    rw [V42Base.chainLen, hr i h1 h2]
  have hu : ∀ i, x.inUse i = true → 3 ≤ i ∧ i < 259 := fun i h => by
    by_contra hne
    simp [V42Base.inUse, V42Base.isFree, hf i hne] at h
  refine ⟨⟨by omega, by rw [ht, hs]; norm_num, by rw [ht]; decide⟩, ⟨fun b => ?_, fun i h => ?_⟩, ⟨fun i _ => ?_, fun q k i => ?_, ?_, ?_⟩, ?_⟩
  · have hb : 3 ≤ 3 + b.toNat ∧ 3 + b.toNat < 259 := ⟨by omega, by have := b.isLt; omega⟩
    refine ⟨hr _ hb.1 hb.2, ?_⟩
    rw [nodeAt_of_nil hn]
    unfold Node.atReset
    split
    · simp [Config.cwReserved]
    · rename_i hh
      exact absurd hb hh
  · have : ¬ (3 ≤ i ∧ i < 259) := by
      simp only [Config.cwReserved, dp, Params.defaults] at h
      omega
    simp [V42Base.isFree, hf i this]
  · simp [V42Base.isLeaf, hc i]
  · rw [hc q]
    refine ⟨fun h => by simp [Cells.lookup] at h, fun ⟨h1, h2, _⟩ => ?_⟩
    rw [hf i (by simp only [Config.cwFirst] at h1; omega)] at h2
    cases h2
  · intro i h1 h2
    rw [hf i (by simp only [Config.cwFirst] at h1; omega)] at h2
    cases h2
  · intro i h
    obtain ⟨h1, h2⟩ := hu i h
    simp [hl i h1 h2]
  · refine ⟨⟨by rw [hx]; decide, by rw [hx]; decide, ?_⟩, ?_⟩
    · simp [V42Base.isFree, hf _ (by omega : ¬ (3 ≤ x.nextCodeWord ∧ x.nextCodeWord < 259))]
    · rcases hm with ⟨h1, h2⟩ | ⟨h1, h2⟩
      · simp [h1, h2]
      · simp [h1, h2, hl 3 (by decide) (by decide), V42Base.inUse, V42Base.isFree, hr 3 (by decide) (by decide),
          Config.cwReserved]

/-- C in compressed mode with a root matched. -/
def compressing : State :=
  { start with
    c := { start.c with
      base := { start.c.base with transparent := false, curCode := some 3, matchLen := 1 }
      testCount := 2 } }

/-- D in compressed mode with one bit pending. -/
def decompressing : State :=
  { start with d := { start.d with base := { start.d.base with transparent := false }, inBuf := 1, inCnt := 1 } }

/-- Phase Detection after ADP. -/
def waiting : State := { start with l := { start.l with phase := .detection, adpSent := true } }

theorem start_c_inv : start.c.inv dp :=
  ⟨rootsOnly_inv rfl rfl rfl rfl (.inl ⟨rfl, rfl⟩), by decide, by decide, by decide, by decide⟩

theorem start_d_inv : start.d.inv dp :=
  ⟨rootsOnly_inv rfl rfl rfl rfl (.inl ⟨rfl, rfl⟩), by decide, by decide, by decide, by decide⟩

theorem compressing_inv : compressing.c.inv dp :=
  ⟨rootsOnly_inv rfl rfl rfl rfl (.inr ⟨rfl, rfl⟩), by decide, by decide, by decide, by decide⟩

theorem decompressing_inv : decompressing.d.inv dp :=
  ⟨rootsOnly_inv rfl rfl rfl rfl (.inl ⟨rfl, rfl⟩), by decide, by decide, by decide, by decide⟩

/-- A well-formed instruction, and a presentation that decodes. -/
theorem witness_DecodeEncodeAgree :
    dp.wf = true ∧ wellFormed dp (.cwData 65535) = true ∧ decode dp (.codeword 3) = .ok (.cwData 3) := by decide +kernel

/-- Nothing presented; an instruction; octets for the source; an unknown selector; another presentation that is no instruction. -/
theorem witness_StepRunsDecoded :
    start.input = [] ∧ decode dp (.op [0x12]) = .ok .v14Flush ∧ (0x18 : Octet) ∉ selectors ∧ (0x53 : Octet) ∉ selectors
    ∧ decode dp (.op [0x12, 0]) = .error .operandCount := by decide +kernel

/-- A written V. -/
theorem witness_V14SetsbAndRsb :
    start.written.v = true ∧ (1 : Nat) ≠ 0 := by decide +kernel

/-- V with seven bits pending, and with none. -/
theorem witness_V14TxAndFlushQueue :
    start.written.v = true ∧ start.v.inv ∧ { start.v with txCurByte := 0x7F, txBitCount := 7 }.inv := by decide +kernel

/-- V in each state, before the last data bit and at the edges of `missGap`. -/
theorem witness_V14RxbitEffect :
    start.written.v = true ∧ start.v.inv ∧ { start.v with rxState := .receiving, rxBitCount := 7, rxCurByte := 0x7F }.inv
    ∧ { start.v with rxState := .receiving, rxBitCount := 6, rxCurByte := 0x3F }.inv
    ∧ { start.v with rxState := .stopBit, rxBitCount := 8, missGap := 4 }.inv
    ∧ { start.v with rxState := .stopBit, rxBitCount := 8, missGap := 5 }.inv := by decide +kernel

/-- V with seven data bits received: the octet's first bit completes the character. -/
theorem witness_V14RxIsEightBits :
    start.written.v = true ∧ { start.v with rxState := .receiving, rxBitCount := 7, rxCurByte := 0x7F }.inv := by decide +kernel

/-- Each queue with one octet and with none. -/
theorem witness_PopTakesHead :
    start.written = Written.all ∧ { start.v with txQueue := [1] }.txQueue = [1] ∧ start.v.txQueue = []
    ∧ { start.h with txBuffer := [1] }.txBuffer = [1] ∧ start.h.txBuffer = []
    ∧ { start.c with out := [1] }.out = [1] ∧ start.c.out = [] ∧ { start.d with out := [1] }.out = [1] ∧ start.d.out = [] := by decide +kernel

/-- One stop bit. -/
theorem witness_V14RoundTrip :
    (1 : Nat) ≤ 1 := by decide +kernel

/-- A written H. -/
theorem witness_HCrc16Value :
    start.written.h = true := by decide +kernel

/-- H with seven bits pending and four 1s sent. -/
theorem witness_HSendQueuesLine :
    start.written.h = true ∧ { start.h with txCur := 0x7F, txCnt := 7, txOnes := 4 }.inv := by decide +kernel

/-- Runs of 0, 4, 5, 6 and 7 1s. -/
theorem witness_HRxbitEffect :
    start.written.h = true
    ∧ ∀ n ∈ [(0 : BitVec 3), 4, 5, 6, 7], { start.h with rxOnes := n, rxCur := 0x7F, rxCnt := 7 }.inv := by decide +kernel

/-- Four frames outstanding across the wrap: an N(R) that acknowledges all, and one too far. -/
theorem witness_RrRnrAcknowledge :
    (outstanding 126 4).pumpsOpen ∧ (outstanding 126 4).handlesFrames ∧ (outstanding 126 4).cfg.wf = true
    ∧ Cells.sorted (outstanding 126 4).l.sentIFrames = true
    ∧ (outstanding 126 4).l.accepts 2 ∧ ¬ (outstanding 126 4).l.accepts 3 := by decide +kernel

/-- The same, and an N(R) that is not accepted although it is V(A), with 65 frames outstanding. -/
theorem witness_RejGoesBack :
    (outstanding 126 4).pumpsOpen ∧ (outstanding 126 4).handlesFrames ∧ (outstanding 126 4).cfg.wf = true
    ∧ Cells.sorted (outstanding 126 4).l.sentIFrames = true ∧ (outstanding 126 4).h.inv
    ∧ (outstanding 126 4).l.resent 1 = [[3, 2, 0]] ∧ (outstanding 126 4).l.resent 2 = []
    ∧ (outstanding 10 65).l.txSeqAck = 10 ∧ ¬ (outstanding 10 65).l.accepts 10 ∧ (outstanding 10 65).l.resent 10 = [] := by decide +kernel

/-- Each of the four. -/
theorem witness_UnknownCommandsDropped :
    connected.pumpsOpen ∧ connected.handlesFrames ∧ connected.cfg.wf = true
    ∧ ∀ i ∈ [Instr.srej 1 0 false 0, .sOther 1 0x11 0 false 0, .ua 1 true 0, .uOther 1 0x0F true 0], wellFormed dp i = true := by decide +kernel

/-- Phase Connected, and Establish. -/
theorem witness_SabmeAndDiscAnswered :
    connected.pumpsOpen ∧ connected.handlesFrames ∧ connected.cfg.wf = true ∧ connected.h.inv
    ∧ { connected with l := { connected.l with phase := .establish } }.handlesFrames := by decide +kernel

/-- An I-frame that can be piggybacked, and one that cannot. -/
theorem witness_InSequenceDelivered :
    connected.pumpsOpen ∧ connected.handlesFrames ∧ connected.cfg.wf = true
    ∧ Cells.sorted connected.l.sentIFrames = true ∧ connected.h.inv ∧ connected.cfg.compEnabled = false
    ∧ connected.piggybacks 0 = false ∧ { connected with source := [1] }.piggybacks 0 = true := by decide +kernel

/-- N(S) is one too far. -/
theorem witness_OutOfSequenceRejected :
    connected.pumpsOpen ∧ connected.handlesFrames ∧ connected.cfg.wf = true
    ∧ Cells.sorted connected.l.sentIFrames = true ∧ connected.h.inv ∧ (1 : SeqNum) ≠ connected.l.rxSeqNum := by decide +kernel

/-- Connected with compression. -/
def connectedCompressed : State :=
  { State.resetWith { dp with compEnabled := true } with l := { connected.l with phase := .connected } }

/-- An information field without a fault (T39), and one that faults. -/
theorem witness_CompressedDelivery :
    connectedCompressed.pumpsOpen ∧ connectedCompressed.handlesFrames ∧ connectedCompressed.takesStream
    ∧ connectedCompressed.cfg.wf = true ∧ Cells.sorted connectedCompressed.l.sentIFrames = true
    ∧ connectedCompressed.h.inv ∧ connectedCompressed.cfg.compEnabled = true ∧ connectedCompressed.d.out = []
    ∧ ((execAll [.dWrite 0, .dWrite 1, .dWrite 0x62] connectedCompressed).map fun r => (r.1.d.fault, r.1.d.out))
        = some (none, [0, 0x62])
    ∧ ((execAll [.dWrite 0x41, .dWrite 0, .dWrite 7] connectedCompressed).map fun r => (r.1.d.fault, r.1.d.out))
        = some (some (.badCommand 7), [0x41])
    ∧ ((execAll [.dWrite 0x41, .dWrite 0] connectedCompressed).map fun r => r.1.d.fault) = some none := by decide +kernel

/-- An information field made of groups that fit. -/
theorem witness_XidLearnedAndEchoed :
    connected.pumpsOpen ∧ connected.handlesFrames ∧ connected.cfg.wf = true ∧ connected.h.inv
    ∧ ∀ g ∈ [XidGroup.params 0x80 [⟨6, [2, 0]⟩], .params 0xF0 [⟨1, [3]⟩], .skipped 0xFF [0x55], .skipped 0x33 []], g.fits = true := by decide +kernel

/-- R145: with another format identifier no information field is made of groups. -/
theorem witness_XidLearnedAndEchoed_malformed :
    ∀ gs : List XidGroup, (∀ g ∈ gs, g.fits = true) →
      ([0x81] : List Octet) ≠ Config.xidFi :: gs.flatMap XidGroup.octets := by
  intro gs _ h
  have : (0x81 : Octet) = Config.xidFi := (List.cons.inj h).1
  exact absurd this (by decide)

/-- The longest value that a group can hold behind another, and none. -/
theorem witness_XidItemsEffect :
    connected.pumpsOpen ∧ connected.handlesFrames ∧ connected.cfg.wf = true ∧ connected.h.inv
    ∧ ([0x55] : List Octet).length < 65536 ∧ (List.replicate 255 (0 : Octet)).length < 256
    ∧ (XidGroup.params Config.xidGidPublic [⟨6, [2, 0]⟩, ⟨9, []⟩]).fits = true := by decide +kernel

/-- Content that is no sequence of parameters: an identifier without a length. -/
theorem witness_XidItemsEffect_malformed :
    ([6] : List Octet).length < 65536
    ∧ ∀ qs : List XidParam, (XidGroup.params Config.xidGidPublic qs).fits = true →
        ([6] : List Octet) ≠ qs.flatMap fun x => xidParamOctets x.pi x.pv := by
  refine ⟨by decide, fun qs _ h => ?_⟩
  have := congrArg List.length h
  cases qs with
  | nil => simp at this
  | cons q qs =>
    simp [xidParamOctets] at this

/-- A pattern on the line. -/
theorem witness_PatternsAreBits :
    start.pumpsOpen ∧ encode dp (.abort 7 0) = .line (List.replicate 7 true) 0
    ∧ encode dp (.adp 0) = .line adpBits 0 := by decide +kernel

/-- RR behind a flag, without and with an octet that is ignored; its time one unit before expiry and at expiry, after ADP and
before it. -/
theorem witness_FrameOnLineIsHandled :
    connected.pumpsOpen ∧ connected.handlesFrames ∧ connected.cfg.wf = true ∧ connected.h = Hdlc.atReset
    ∧ decode dp (.frame [3, 1, 1] 5) = .ok (.rr 3 0 true 5) ∧ decode dp (.frame [3, 1, 1, 9] 5) = .ok (.rr 3 0 true 5)
    ∧ waiting.pumpsOpen ∧ waiting.l.phase = .detection ∧ waiting.l.adpSent = true
    ∧ frameTime (.rr 3 0 true 749) = some 749 ∧ 749 < waiting.l.detStart + 750
    ∧ frameTime (.xidFi 1 true 750) = some 750 ∧ waiting.l.detStart + 750 ≤ 750
    ∧ start.pumpsOpen ∧ start.l.phase = .none ∧ start.l.adpSent = false := by decide +kernel

/-- No octets, and three; a frame of four octets with a bad FCS, and an S frame of four octets with a good one. -/
theorem witness_BadFramesDropped :
    connected.pumpsOpen ∧ connected.handlesFrames ∧ connected.h = Hdlc.atReset
    ∧ ([] : List Octet).length < 4 ∧ ([1, 1, 0] : List Octet).length < 4
    ∧ 4 ≤ ([1, 1, 0, 0] : List Octet).length ∧ checkFcs [1, 1, 0, 0] = false
    ∧ checkFcs [0x01, 0x01, 0x16, 0x07] = true
    ∧ (([0x01, 0x01, 0x16, 0x07].getD 1 (0 : Octet)).getLsbD 0 && ([0x01, 0x01, 0x16, 0x07].getD 1 (0 : Octet)).getLsbD 1) = false := by decide +kernel

/-- Detection after ADP, one unit before the timer expires; Connected right behind a flag; Release; seven 1s. -/
theorem witness_FlagAndAbortOnLine :
    waiting.pumpsOpen ∧ 7 ≤ 7 ∧ waiting.l.phase = .detection ∧ waiting.l.adpSent = true ∧ 749 < waiting.l.detStart + 750
    ∧ connected.pumpsOpen ∧ connected.handlesFrames ∧ connected.h.rxOnes ≠ 5 ∧ connected.h.rxOnes ≠ 6
    ∧ connected.h.rxCnt = 0 ∧ connected.h.rxFrame.length < 4
    ∧ { start with l := { start.l with phase := .release } }.pumpsOpen := by decide +kernel

/-- Phase None, and V14; one stop bit. -/
theorem witness_CharactersOutsideDetection :
    start.pumpsOpen ∧ start.v.rxState = .idle ∧ start.v.inv ∧ 1 ≤ 1 ∧ start.l.phase = .none ∧ start.l.adpSent = false
    ∧ { start with l := { start.l with phase := .v14 } }.pumpsOpen := by decide +kernel

/-- Detection before ADP with two repetitions, one unit before expiry: the character is no fourth repetition. -/
theorem witness_DetectionCounts :
    { waiting with l := { waiting.l with adpSent := false, odpCount := 2, lastOdp := some 0x11 } }.pumpsOpen
    ∧ start.v.rxState = .idle ∧ start.v.inv ∧ 749 < waiting.l.detStart + 750 ∧ (2 : BitVec 3) ≠ 3
    ∧ encode dp (.odp true 9 749) = .line (charBits 0x91 9) 749 ∧ encode dp (.v14Char 0x41 1 749) = .line (charBits 0x41 1) 749 := by decide +kernel

/-- 9 and 17 stop bits, the last one unit before expiry. -/
theorem witness_FourOdpsAnswered :
    start.pumpsOpen ∧ start.l.phase = .none ∧ start.l.adpSent = false ∧ start.v.rxState = .idle ∧ start.v.inv
    ∧ (∀ n ∈ [9, 17, 9, 17], n = 9 ∨ n = 17) ∧ (∀ t ∈ [10, 20, 749], t < 0 + 750) := by decide +kernel

/-- Detection with three repetitions, the last one framed with `run` stop bits. -/
def threeCounted (run : Nat) : State :=
  { start with
    v := { start.v with maxStopBits := run }
    l := { start.l with phase := .detection, odpCount := 3, lastOdp := some 0x11 } }

/-- Both stop-bit counts, one unit before expiry; the fourth repetition with one stop bit and with nine. -/
theorem witness_AdpQueuesAnswer :
    ∀ run ∈ [9, 17],
      (threeCounted run).pumpsOpen ∧ (threeCounted run).written.h = true ∧ (threeCounted run).l.phase = .detection
      ∧ (threeCounted run).l.adpSent = false ∧ 749 < (threeCounted run).l.detStart + 750
      ∧ (threeCounted run).v.rxState = .idle ∧ (threeCounted run).v.inv ∧ (threeCounted run).l.odpCount = 3
      ∧ (threeCounted run).l.lastOdp ≠ some 0x91 ∧ (threeCounted run).v.maxStopBits = run
      ∧ encode dp (.v14Char 0x91 1 749) = .line (charBits 0x91 1) 749
      ∧ encode dp (.odp true 9 749) = .line (charBits 0x91 9) 749 := by decide +kernel

/-- At 750 units, and one before. -/
theorem witness_DetectionTimerFallsBack :
    waiting.pumpsOpen ∧ waiting.l.phase = .detection ∧ waiting.l.detStart + 750 ≤ 750 ∧ ¬ waiting.l.detStart + 750 ≤ 749 := by decide +kernel

/-- Three repetitions counted, then seven bits of DC1. -/
def receiving (run : Nat) : State :=
  { threeCounted run with v := { (threeCounted run).v with rxState := .receiving, rxBitCount := 7, rxCurByte := 0x11 } }

/-- Each phase. -/
theorem witness_LRxbitByPhase :
    ∀ ph ∈ [Phase.none, .detection, .establish, .connected, .release, .v14],
      { waiting with l := { waiting.l with phase := ph } }.pumpsOpen ∧ waiting.written.v = true ∧ waiting.written.h = true
      ∧ 749 < waiting.l.detStart + 750 := by decide +kernel

/-- Before ADP: the bit completes a character, which is DC1 or not, in None, and in Detection as the fourth repetition, as
another, and as none. -/
theorem witness_LRxbitByPhase_character :
    (∀ b : Bool, (after (.v14Rxbit b) (receiving 9)).result = .octet (if b then 0x91 else 0x11))
    ∧ (after (.v14Rxbit true) (receiving 9)).v.maxStopBits = 9
    ∧ (receiving 9).pumpsOpen ∧ (receiving 9).v.inv ∧ (receiving 9).l.adpSent = false
    ∧ (receiving 9).l.phase = .detection ∧ (receiving 9).l.odpCount = 3 ∧ (receiving 9).l.lastOdp = some 0x11
    ∧ (after (.v14Rxbit true) (receiving 10)).v.maxStopBits = 10
    ∧ (after (.v14Rxbit true) { start with
        v := { start.v with rxState := .receiving, rxBitCount := 7, rxCurByte := 0x41 } }).result = .octet 0xC1 := by decide +kernel

/-- Phases None, Detection and V14, the source empty and not. -/
theorem witness_TxbitFromV :
    start.pumpsOpen ∧ start.v.inv ∧ start.l.phase = .none ∧ waiting.l.phase = .detection ∧ 749 < waiting.l.detStart + 750
    ∧ { start with l := { start.l with phase := .v14 }, source := [1] }.pumpsOpen := by decide +kernel

/-- Connected with nothing in the source, the timer at 999 and at 1000 units. -/
theorem witness_TxbitFromH :
    connected.pumpsOpen ∧ connected.h.inv ∧ connected.handlesFrames ∧ connected.h.txBuffer = []
    ∧ connected.piggybacks connected.l.txSeqAck = false
    ∧ connected.l.inactStart + 1000 ≤ 1000 ∧ ¬ connected.l.inactStart + 1000 ≤ 999 := by decide +kernel

/-- Connected with an octet in the source, with and without compression. -/
theorem witness_TxbitSendsIFrame :
    { connected with source := [1] }.pumpsOpen ∧ connected.h.inv ∧ connected.written.c = true ∧ connected.h.txBuffer = []
    ∧ { connected with source := [1] }.piggybacks connected.l.txSeqAck = true
    ∧ { connectedCompressed with source := [1] }.piggybacks connectedCompressed.l.txSeqAck = true
    ∧ connected.cfg.compEnabled = false ∧ connectedCompressed.cfg.compEnabled = true := by decide +kernel

/-- Release with nothing queued, and with one pending bit. -/
theorem witness_ReleaseDrains :
    { start with l := { start.l with phase := .release } }.pumpsOpen ∧ start.h.inv ∧ start.h.txBuffer = [] ∧ start.h.txCnt = 0
    ∧ { start.h with txCur := 1, txCnt := 1 }.inv := by decide +kernel

/-- The roots alone, with and without a match. -/
theorem witness_DictionaryMatches :
    dp.wf = true ∧ start.c.base.nodesWf = true ∧ start.c.base.inv dp ∧ compressing.c.base.nodesWf = true
    ∧ compressing.c.base.inv dp ∧ compressing.c.base.curCode = some 3
    ∧ compressing.c.base.childAt 3 0 = none ∧ compressing.c.base.matchLen + 1 ≤ dp.maxStringLength :=
  ⟨by decide, by decide +kernel, start_c_inv.1, by decide +kernel, compressing_inv.1, rfl, by decide +kernel, by decide⟩

/-- A dictionary at the last slot, whose only entry is the leaf 259 under the root of 0; the root of 1 is matched. -/
def lastSlot : V42Base :=
  { start.c.base with
    node := [(3, { character := 0, parent := .root, children := [(0, 259)] }),
      (259, { character := 0, parent := .node 3, children := [] })]
    nextCodeWord := 2047, curCode := some 4, matchLen := 1 }

theorem lastSlot_nodeAt (i : Nat) :
    lastSlot.nodeAt i =
      if i = 3 then { character := 0, parent := .root, children := [(0, 259)] }
      else if i = 259 then { character := 0, parent := .node 3, children := [] }
      else Node.atReset i := by
  by_cases h3 : i = 3
  · subst h3; rfl
  · by_cases h9 : i = 259
    · subst h9; rfl
    · simp [V42Base.nodeAt, lastSlot, Cells.lookup, h3, h9, Ne.symm h3, Ne.symm h9]

theorem lastSlot_inv : lastSlot.inv dp := by
  have hr : ∀ i, 3 ≤ i → i < 259 → (lastSlot.nodeAt i).parent = .root := fun i h1 h2 => by
    rw [lastSlot_nodeAt]
    split
    · rfl
    · rw [if_neg (by omega), Node.atReset, if_pos ⟨h1, h2⟩]
  have hf : ∀ i, i < 3 ∨ 259 < i → lastSlot.nodeAt i = { character := 0, parent := .free, children := [] } := fun i h => by
    rw [lastSlot_nodeAt, if_neg (by omega), if_neg (by omega), Node.atReset,
      if_neg (by simp only [Config.cwReserved, Config.cwFirst]; omega)]
  have h9 : lastSlot.nodeAt 259 = { character := 0, parent := .node 3, children := [] } := rfl
  have h3 : lastSlot.nodeAt 3 = { character := 0, parent := .root, children := [(0, 259)] } := rfl
  have hc : ∀ i, i ≠ 3 → (lastSlot.nodeAt i).children = [] := fun i h => by
    rw [lastSlot_nodeAt, if_neg h]
    split
    · rfl
    · unfold Node.atReset; split <;> rfl
  have cases : ∀ i, (i < 3 ∨ 259 < i) ∨ i = 259 ∨ (3 ≤ i ∧ i < 259) := fun i => by omega
  refine ⟨⟨by decide, by decide, by decide⟩, ⟨fun b => ?_, fun i h => ?_⟩, ⟨fun i h => ?_, fun q k i => ?_, fun i h1 h2 => ?_, fun i h => ?_⟩,
    ⟨⟨by decide, by decide, by decide +kernel⟩, ⟨by decide +kernel, by decide +kernel⟩⟩⟩
  · have hb := b.isLt
    refine ⟨hr _ (by simp [Config.cwReserved]) (by simp only [Config.cwReserved]; omega), ?_⟩
    rw [lastSlot_nodeAt]
    split
    · have : b = 0 := BitVec.eq_of_toNat_eq (by simp only [Config.cwReserved] at *; simp; omega)
      exact this.symm
    · rw [if_neg (by simp only [Config.cwReserved]; omega), Node.atReset,
        if_pos (by simp only [Config.cwReserved, Config.cwFirst]; omega)]
      simp [Config.cwReserved]
  · have : i < 3 ∨ 259 < i := by
      simp only [Config.cwReserved, dp, Params.defaults] at h
      omega
    simp [V42Base.isFree, hf i this]
  · have : i ≠ 3 := fun e => by subst e; simp [V42Base.isFree, h3] at h
    simp [V42Base.isLeaf, hc i this]
  · by_cases hq : q = 3
    · subst hq
      rw [h3]
      refine ⟨fun h => ?_, fun ⟨h1, h2, hk⟩ => ?_⟩
      · simp only [Cells.lookup] at h
        split at h
        · rename_i hk
          cases h
          exact ⟨by decide, by rw [h9], by rw [h9]; exact hk⟩
        · cases h
      · rcases cases i with h | h | h
        · rw [hf i h] at h2; cases h2
        · subst h
          rw [h9] at hk
          have : k = 0 := hk.symm
          subst this
          rfl
        · simp only [Config.cwFirst] at h1; omega
    · rw [hc q hq]
      refine ⟨fun h => by simp [Cells.lookup] at h, fun ⟨h1, h2, _⟩ => ?_⟩
      rcases cases i with h | h | h
      · rw [hf i h] at h2; cases h2
      · subst h
        rw [h9] at h2
        cases h2
        exact absurd rfl hq
      · simp only [Config.cwFirst] at h1; omega
  · rcases cases i with h | h | h
    · rw [hf i h] at h2; cases h2
    · subst h; rw [h9] at h2; cases h2
    · simp only [Config.cwFirst] at h1; omega
  · rcases cases i with h' | h' | h'
    · simp [V42Base.inUse, V42Base.isFree, hf i h'] at h
    · subst h'; decide +kernel
    · show (lastSlot.chainLen 32 i).isSome
      rw [V42Base.chainLen, hr i h'.1 h'.2]
      rfl

/-- The scan wraps from the last slot, and the leaf 259 that it meets is detached (R175, T46); from 259 it finds 260 free. -/
theorem witness_DictionaryMatches_recovers :
    lastSlot.nodesWf = true ∧ lastSlot.inv dp ∧ lastSlot.curCode = some 4 ∧ lastSlot.childAt 4 1 = none
    ∧ lastSlot.matchLen + 1 ≤ dp.maxStringLength ∧ 259 + (lastSlot.nextCodeWord - 259 + 1) % (dp.maxCodeWords - 259) = 259
    ∧ (lastSlot.acceptChar dp 1).1.nextCodeWord = 259
    ∧ ((lastSlot.acceptChar dp 1).1.nodeAt 3).children = [] ∧ (lastSlot.acceptChar dp 1).1.isFree 259 = true
    ∧ (compressing.c.base.acceptChar dp 0).1.nextCodeWord = 260 :=
  ⟨by decide +kernel, lastSlot_inv, rfl, by decide +kernel, by decide +kernel, by decide +kernel, by decide +kernel,
    by decide +kernel, by decide +kernel, by decide +kernel⟩

/-- Two writes before the mode test; an octet that is the escape code. -/
theorem witness_CWriteTransparent :
    start.written.c = true ∧ start.c.base.transparent = true ∧ 2 ≤ { start.c with testCount := 2 }.testCount
    ∧ start.c.base.escapeCode = 0 := by decide +kernel

/-- Two writes before the mode test; the match ends at 00, and its codeword is 3. -/
theorem witness_CWriteCompressed :
    compressing.written.c = true ∧ compressing.cfg.wf = true ∧ compressing.c.inv compressing.cfg
    ∧ compressing.c.base.transparent = false ∧ 2 ≤ compressing.c.testCount
    ∧ ({ compressing.c.base with escapeCode := 51 }.acceptChar compressing.cfg 0).2 = some (3, 1) :=
  ⟨rfl, by decide, compressing_inv, rfl, by decide, by decide +kernel⟩

/-- The write that brings the count to 0, with an accumulator that changes the mode and one that does not. -/
theorem witness_CWriteModeTest :
    start.written.c = true ∧ { start.c with testCount := 1 }.testCount = 1
    ∧ ((after (.cWrite 1) { start with c := { start.c with testCount := 2, compressTest := 17 } }).c.base.transparent,
        (after (.cWrite 1) { start with c := { start.c with testCount := 2, compressTest := 17 } }).c.compressTest) = (true, 17)
    ∧ (after (.cWrite 1) { start with c := { start.c with testCount := 2, compressTest := 16 } }).c.compressTest = 16 := by decide +kernel

/-- C in transparent mode, and in compressed mode with a match. -/
theorem witness_CmodeAndFlush :
    start.written.c = true ∧ start.cfg.wf = true ∧ start.c.inv start.cfg ∧ start.c.base.transparent = true
    ∧ compressing.c.inv compressing.cfg ∧ compressing.c.base.transparent = false
    ∧ compressing.c.base.curCode = some 3 ∧ compressing.c.base.modeTransition = false :=
  ⟨rfl, by decide, start_c_inv, rfl, compressing_inv, rfl, rfl, rfl⟩

/-- The escape code, and another octet. -/
theorem witness_DWriteTransparent :
    start.takesStream ∧ start.d.base.transparent = true ∧ start.d.escaped = false ∧ start.d.base.escapeCode = 0 := by decide +kernel

/-- A command octet that is none. -/
theorem witness_EscapePairs :
    start.takesStream ∧ start.cfg.wf = true ∧ start.d.base.transparent = true ∧ start.d.escaped = false
    ∧ wellFormed dp (.tBadcmd 3) = true := by decide +kernel

/-- Both modes. -/
theorem witness_StreamRowsInEveryMode :
    start.takesStream ∧ start.d.base.transparent = true ∧ decompressing.takesStream := by decide +kernel

/-- The first and the last root, the first free node, and the first index outside the arena. -/
theorem witness_CodewordsEffect :
    decompressing.takesStream ∧ decompressing.d.base.transparent = false ∧ 3 ≤ 3
    ∧ decompressing.d.base.isFree 3 = false ∧ decompressing.d.base.isFree 258 = false
    ∧ decompressing.d.base.isFree 259 = true ∧ 258 < decompressing.cfg.maxCodeWords ∧ decompressing.cfg.maxCodeWords ≤ 2048 := by decide +kernel

/-- One bit pending, so that the octet completes a codeword; with none pending it does not. -/
theorem witness_DWriteCompressed :
    decompressing.takesStream ∧ decompressing.cfg.wf = true ∧ decompressing.d.inv decompressing.cfg
    ∧ decompressing.d.base.transparent = false ∧ decompressing.d.base.codeWordSize ≤ decompressing.d.inCnt + 8
    ∧ { decompressing.d with inBuf := 0, inCnt := 0 }.inv decompressing.cfg ∧ 0 + 8 < decompressing.d.base.codeWordSize :=
  ⟨by decide, by decide, decompressing_inv, rfl, by decide,
    ⟨rootsOnly_inv rfl rfl rfl rfl (.inl ⟨rfl, rfl⟩), by decide, by decide, by decide, by decide⟩, by decide⟩

/-- Parameters that are allowed, and operations of C. -/
theorem witness_LockStepAfterFlush :
    start.cfg.wf = true
    ∧ ∀ i ∈ [Instr.cWrite 0x61, .cCmode, .cWrite 0x62, .cFlush], i = .cCmode ∨ i = .cFlush ∨ i = .cWrite 0x61 ∨ i = .cWrite 0x62 := by decide +kernel

/-- An unwritten unit; a latched fault in D, and in L. -/
theorem witness_RefusalChangesNothing :
    (State.beforeReset dp).written.unit (unitOf .hSendflag) = false ∧ (Instr.hSendflag : Instr) ≠ (unitOf .hSendflag).reset
    ∧ unitOf (.dWrite 0) = .d ∧ { start.d with fault := some (.badCommand 3) }.fault ≠ none
    ∧ unitOf (.flag 0) = .l ∧ { start.l with fault := some (.badCommand 3) }.fault ≠ none := by decide +kernel

/-- D.POP under a latched fault. -/
theorem witness_OnlyResetClearsFaults :
    ∃ t, exec .dPop
      { start with d := { start.d with fault := some (.badCommand 3) } } = .next t :=
  ⟨_, rfl⟩

/-- A bit that is logged. -/
theorem witness_TraceIsNeverRead :
    ∃ t, exec (.v14Rxbit false)
      { start with v := { start.v with rxState := .stopBit, missGap := 4 } } = .next t :=
  ⟨_, rfl⟩

/-- V14.FLUSH after reset. -/
theorem witness_UnitsAreIsolated :
    ∃ t, exec .v14Flush
      start = .next t :=
  ⟨_, rfl⟩

/-- C.WRITE after reset. -/
theorem witness_OutsideGrowsOnly :
    ∃ t, exec (.cWrite 0)
      start = .next t :=
  ⟨_, rfl⟩

/-- L.RXBIT at the timer's expiry; a frame's row and a stream's row. -/
theorem witness_PhaseTransitions :
    { waiting.l with odpCount := 4 }.inv ∧ frameTime (.disc 1 true 4) = some 4 ∧ unitOf (.tData 0) = .d
    ∧ ∃ t, exec (.lRxbit true 750) waiting = .next t :=
  ⟨by decide +kernel, rfl, rfl, _, rfl⟩

/-- A step from a state whose stored frames and dictionary are not empty. -/
theorem witness_MemoryWfKept :
    Memory.wf { (outstanding 126 4) with
      c := (after (.cWrite 0) (after (.cWrite 0) start)).c, input := [.op [0x40, 0x33]] } = true
    ∧ ∃ t, step { (outstanding 126 4) with
      c := (after (.cWrite 0) (after (.cWrite 0) start)).c, input := [.op [0x40, 0x33]] } = .next t :=
  ⟨by decide +kernel, _, rfl⟩

/-- A step from a state with three repetitions counted. -/
theorem witness_LineUnitsInvKept :
    start.v.inv ∧ start.h.inv ∧ { waiting.l with odpCount := 4, lastOdp := some 0x91 }.inv
    ∧ { start.l with odpCount := 3, lastOdp := some 0x11 }.inv ∧ (outstanding 126 4).l.inv
    ∧ ∃ t, step { (outstanding 126 4) with input := [.op [0x30, 1]] } = .next t :=
  ⟨by decide +kernel, by decide +kernel, by decide +kernel, by decide +kernel, by decide +kernel, _, rfl⟩

/-- A write from a state with C in compressed mode, and one to D. -/
theorem witness_CodecInvKept :
    start.cfg.wf = true ∧ Memory.wf { compressing with d := decompressing.d, input := [.op [0x40, 0x33]] } = true
    ∧ compressing.c.inv dp ∧ decompressing.d.inv dp
    ∧ ∃ t, step { compressing with d := decompressing.d, input := [.op [0x40, 0x33]] } = .next t :=
  ⟨by decide, by decide +kernel, compressing_inv, decompressing_inv, _, rfl⟩

/-- The default parameters. -/
theorem witness_ResetMeetsInvariants :
    dp.wf = true := by decide +kernel

end Sys2Proof.Tests.Slice0
end

section
/-!
SUPPORT. What a step does with what is presented (00_scope.md R3, 20_memory.md R37, 30_encoding.md R51).
-/

namespace Sys2Proof.Machine

/-- R51: a selector octet outside R52 is no operation, whatever stands behind it. -/
theorem decodeOp_of_notMem_selectors {sel : Octet} (args : List Octet) (h : sel ∉ selectors) :
    decodeOp (sel :: args) = .error .unknownSelector := by
  have hn : sel.toNat ∉ selectors.map BitVec.toNat := fun hm => by
    obtain ⟨o, ho, he⟩ := List.mem_map.mp hm
    exact h (BitVec.eq_of_toNat_eq he ▸ ho)
  unfold decodeOp
  dsimp only
  split
  case h_26 => rfl
  all_goals
    rename_i he
    exact absurd (by rw [he]; decide) hn

variable {s : State} {x : Input} {rest : List Input}

/-- R239: with nothing presented nothing happens. -/
theorem step_of_input_nil (h : s.input = []) : step s = .next s := by
  simp only [step, h]

/-- R37: octets for the byte source join it. -/
theorem step_supply {octets : List Octet} (h : s.input = .supply octets :: rest) :
    step s = .next ((s.setInput rest).setSource (s.source ++ octets)) := by
  simp only [step, h]

/-- R3: what decodes to an instruction is taken and executed; octets for the source decode to none. -/
theorem step_of_decode_ok {i : Instr} (h : s.input = x :: rest) (hd : decode s.cfg x = .ok i) :
    step s = exec i (s.setInput rest) := by
  cases x with
  | supply octets => cases hd
  | _ => simp only [step, h, hd]

/-- R51: any other presentation that decodes to no instruction is taken and refused. -/
theorem step_of_decode_error {e : DecodeError} (h : s.input = x :: rest) (hd : decode s.cfg x = .error e)
    (hx : ∀ octets, x ≠ .supply octets) : step s = refuse (s.setInput rest) (.undecodable e) := by
  cases x with
  | supply octets => exact absurd rfl (hx octets)
  | _ => simp only [step, h, hd]

/-- Settles O3, a lemma about `step` for each clause; an unknown selector is a decode error like any other. -/
theorem stepRunsDecoded : Obligations.StepRunsDecoded := by
  intro s x rest
  refine ⟨step_of_input_nil, fun h => ⟨fun i hd => step_of_decode_ok h hd, ?_, ?_, ?_⟩⟩
  · rintro octets rfl
    exact step_supply h
  · rintro sel args rfl hsel
    exact step_of_decode_error h (decodeOp_of_notMem_selectors args hsel) nofun
  · intro e hd hx
    exact step_of_decode_error h hd hx

end Sys2Proof.Machine
end

section
/-!
SUPPORT. What stands outside the block (00_scope.md R24, 20_memory.md R37, 60_exceptions.md R231) under the internal
procedures and under every instruction: the sink and the trace gain at the end, the source loses at its front.
-/

namespace Sys2Proof.Machine

/-! ### The relation -/

/-- From `s` to `t` the sink and the trace may gain at the end and the source may lose at its front; the parameters and
what is presented are the same (R37, R231, R4). -/
def State.OutsideGrows (s t : State) : Prop :=
  s.sink <+: t.sink ∧ s.trace <+: t.trace ∧ t.source <:+ s.source ∧ t.cfg = s.cfg ∧ t.input = s.input

section Relation

variable {s t u : State}

@[simp] theorem State.OutsideGrows.refl (s : State) : s.OutsideGrows s :=
  ⟨List.prefix_rfl, List.prefix_rfl, List.suffix_rfl, rfl, rfl⟩

theorem State.OutsideGrows.trans (h : s.OutsideGrows t) (k : t.OutsideGrows u) : s.OutsideGrows u := by
  obtain ⟨hsink, htrace, hsource, hcfg, hinput⟩ := h
  obtain ⟨ksink, ktrace, ksource, kcfg, kinput⟩ := k
  exact ⟨hsink.trans ksink, htrace.trans ktrace, ksource.trans hsource, kcfg.trans hcfg, kinput.trans hinput⟩

/-! The units, the written flags and the answer are inside the block: their updates do not touch the relation. -/

@[simp] theorem State.outsideGrows_setV {x : V14} : s.OutsideGrows (t.setV x) ↔ s.OutsideGrows t := Iff.rfl
@[simp] theorem State.outsideGrows_setH {x : Hdlc} : s.OutsideGrows (t.setH x) ↔ s.OutsideGrows t := Iff.rfl
@[simp] theorem State.outsideGrows_setL {x : Lapm} : s.OutsideGrows (t.setL x) ↔ s.OutsideGrows t := Iff.rfl
@[simp] theorem State.outsideGrows_setC {x : Comp} : s.OutsideGrows (t.setC x) ↔ s.OutsideGrows t := Iff.rfl
@[simp] theorem State.outsideGrows_setD {x : Decomp} : s.OutsideGrows (t.setD x) ↔ s.OutsideGrows t := Iff.rfl
@[simp] theorem State.outsideGrows_setWritten {w : Written} :
    s.OutsideGrows (t.setWritten w) ↔ s.OutsideGrows t := Iff.rfl
@[simp] theorem State.outsideGrows_answer {r : Result} : s.OutsideGrows (t.answer r) ↔ s.OutsideGrows t := Iff.rfl
@[simp] theorem State.outsideGrows_lSend {f : List Octet} {now : Nat} :
    s.OutsideGrows (t.lSend f now) ↔ s.OutsideGrows t := by simp [State.lSend]
@[simp] theorem State.outsideGrows_sendAdp : s.OutsideGrows t.sendAdp ↔ s.OutsideGrows t := by simp [State.sendAdp]
@[simp] theorem State.outsideGrows_popV : s.OutsideGrows t.popV ↔ s.OutsideGrows t := by simp [State.popV]
@[simp] theorem State.outsideGrows_popH : s.OutsideGrows t.popH ↔ s.OutsideGrows t := by simp [State.popH]

theorem State.sinkWrite_grows (s : State) (b : Octet) : s.OutsideGrows (s.sinkWrite b) :=
  ⟨List.prefix_append _ _, List.prefix_rfl, List.suffix_rfl, rfl, rfl⟩

theorem State.log_grows (s : State) (es : List Event) : s.OutsideGrows (s.log es) :=
  ⟨List.prefix_rfl, List.prefix_append _ _, List.suffix_rfl, rfl, rfl⟩

theorem State.setSource_grows {octets : List Octet} (h : octets <:+ s.source) : s.OutsideGrows (s.setSource octets) :=
  ⟨List.prefix_rfl, List.prefix_rfl, h, rfl, rfl⟩

theorem State.sinkWrites_grows (s : State) (octets : List Octet) :
    s.OutsideGrows (octets.foldl State.sinkWrite s) := by
  induction octets generalizing s with
  | nil => exact .refl s
  | cons o os ih => exact (s.sinkWrite_grows o).trans (ih _)

end Relation

/-! ### The internal procedures of L -/

section Procedures

variable (s : State)

/-- R150: an I-frame takes its octets from the front of the source. -/
theorem State.gather_grows (k : Nat) : s.OutsideGrows (s.gather k).2 := by
  unfold State.gather
  split
  · simpa using State.setSource_grows (List.drop_suffix k s.source)
  · exact State.setSource_grows (List.drop_suffix k s.source)

theorem State.sendIFrame_grows (now : Nat) : s.OutsideGrows (s.sendIFrame now) := by
  simpa [State.sendIFrame] using s.gather_grows _

theorem State.ackIFrame_grows (nr : SeqNum) : s.OutsideGrows (s.ackIFrame nr) := by
  rw [State.ackIFrame_eq]
  exact s.log_grows _

theorem State.resendFrom_grows (now fuel : Nat) (q : SeqNum) : s.OutsideGrows (State.resendFrom now fuel q s) := by
  rw [State.resendFrom_eq]
  exact .refl s

theorem State.handleReject_grows (nr : SeqNum) (now : Nat) : s.OutsideGrows (s.handleReject nr now) := by
  rw [State.handleReject_eq]
  split
  · exact (s.ackIFrame_grows nr).trans (State.resendFrom_grows _ _ _ _)
  · exact s.log_grows _

theorem State.deliver_grows (x : Octet) : s.OutsideGrows (s.deliver x) := by
  unfold State.deliver
  split
  · dsimp only
    split
    · simp
    · exact .trans (by simp) (State.sinkWrites_grows _ _)
  · exact s.sinkWrite_grows x

theorem State.deliverAll_grows (xs : List Octet) : s.OutsideGrows (s.deliverAll xs) := by
  induction xs generalizing s with
  | nil => exact .refl s
  | cons x xs ih =>
    unfold State.deliverAll
    split
    · exact s.deliver_grows x
    · exact (s.deliver_grows x).trans (ih _)

theorem State.replyRr_grows (addr : Octet) (p : Bool) (now : Nat) : s.OutsideGrows (s.replyRr addr p now) := by
  unfold State.replyRr
  split <;> simp

theorem State.handleIFrame_grows (f : List Octet) (now : Nat) : s.OutsideGrows (s.handleIFrame f now) := by
  unfold State.handleIFrame
  dsimp only
  have ha := s.ackIFrame_grows (seqField (f.getD 2 0))
  generalize s.ackIFrame (seqField (f.getD 2 0)) = a at ha ⊢
  split
  · simpa using ha
  · have hd := ha.trans (.trans (by simp) (State.deliverAll_grows
      (a.setL { a.l with rxSeqNum := incMod128 a.l.rxSeqNum }) ((f.drop 3).take (f.length - 5))))
    split
    · exact hd
    · exact hd.trans (State.replyRr_grows _ _ _ _)

theorem State.handleXid_grows (f : List Octet) (now : Nat) : s.OutsideGrows (s.handleXid f now) := by
  unfold State.handleXid
  split
  · exact s.log_grows _
  · rw [State.outsideGrows_lSend]
    exact .trans (by simp) (State.log_grows _ _)

theorem State.handleS_grows (c : Octet) (nr : SeqNum) (now : Nat) : s.OutsideGrows (s.handleS c nr now) := by
  unfold State.handleS
  split_ifs
  · exact s.ackIFrame_grows nr
  · exact s.ackIFrame_grows nr
  · exact s.handleReject_grows nr now
  · exact s.log_grows _

theorem State.handleU_grows (f : List Octet) (now : Nat) : s.OutsideGrows (s.handleU f now) := by
  unfold State.handleU
  dsimp only
  split_ifs
  · simp [State.handleSabme]
  · simp [State.handleDisc]
  · exact s.handleXid_grows f now
  · exact s.log_grows _

/-- R132: a frame is dropped, logged, or handled by its class. -/
theorem State.handleFrame_grows (f : List Octet) (now : Nat) : s.OutsideGrows (s.handleFrame f now) := by
  unfold State.handleFrame
  dsimp only
  split_ifs
  · exact .refl s
  · exact s.log_grows _
  · exact s.log_grows _
  · exact s.handleIFrame_grows f now
  · exact s.log_grows _
  · exact s.handleS_grows _ _ now
  · exact s.handleU_grows f now

theorem State.checkDetectionTimer_grows (now : Nat) : s.OutsideGrows (s.checkDetectionTimer now) := by
  unfold State.checkDetectionTimer
  split <;> simp

theorem State.vBit_grows (b : Bool) : s.OutsideGrows (s.vBit b).1 :=
  .trans (by simp) (State.log_grows (s.setV (s.v.rxBit b).v) _)

theorem State.firstChar_grows (c : Octet) (now : Nat) : s.OutsideGrows (s.firstChar c now) := by
  unfold State.firstChar
  split
  · simp
  · exact .trans (by simp) (State.sinkWrite_grows _ c)

theorem State.nextChar_grows (c : Octet) (n : Nat) : s.OutsideGrows (s.nextChar c n) := by
  unfold State.nextChar
  dsimp only
  split <;> simp

theorem State.detectBit_grows (b : Bool) (now : Nat) : s.OutsideGrows (s.detectBit b now) := by
  have hv := s.vBit_grows b
  unfold State.detectBit
  split
  · rename_i t ht
    rwa [ht] at hv
  · rename_i t c ht
    rw [ht] at hv
    refine hv.trans ?_
    dsimp only
    split
    · exact .trans (by simp) (State.firstChar_grows _ c now)
    · exact .trans (by simp) (State.nextChar_grows _ c _)

theorem State.passBit_grows (b : Bool) : s.OutsideGrows (s.passBit b) := by
  have hv := s.vBit_grows b
  unfold State.passBit
  split
  · rename_i t ht
    rwa [ht] at hv
  · rename_i t c ht
    rw [ht] at hv
    exact hv.trans (t.sinkWrite_grows c)

theorem State.onHdlc_grows (r : HdlcResult) (now : Nat) : s.OutsideGrows (s.onHdlc r now) := by
  unfold State.onHdlc
  cases s.l.phase with
  | none | detection => cases r <;> simp [State.enterEstablish]
  | establish | connected =>
    cases r with
    | frame f => exact s.handleFrame_grows f now
    | abort => exact s.log_grows _
    | none => exact .refl s
  | v14 | release => exact .refl s

theorem State.hBit_grows (b : Bool) (now : Nat) : s.OutsideGrows (s.hBit b now) :=
  .trans (by simp) (State.onHdlc_grows (s.setH (s.h.rxBit b).1) _ now)

/-- R126: where a received bit goes, by the phase. -/
theorem State.lRxBit_grows (b : Bool) (now : Nat) : s.OutsideGrows (s.lRxBit b now) := by
  refine (s.checkDetectionTimer_grows now).trans ?_
  unfold State.lRxBit
  generalize s.checkDetectionTimer now = a
  dsimp only
  cases a.l.phase with
  | none | detection =>
    dsimp only
    split
    · exact a.hBit_grows b now
    · exact a.detectBit_grows b now
  | v14 => exact a.passBit_grows b
  | establish | connected => exact a.hBit_grows b now
  | release => exact .refl a

theorem State.lRxBits_grows (now : Nat) (bits : List Bool) : s.OutsideGrows (s.lRxBits now bits) := by
  induction bits generalizing s with
  | nil => exact .refl s
  | cons b bs ih =>
    unfold State.lRxBits
    split
    · exact s.lRxBit_grows b now
    · exact (s.lRxBit_grows b now).trans (ih _)

theorem State.lFrame_grows (f : List Octet) (now : Nat) : s.OutsideGrows (s.lFrame f now) := by
  unfold State.lFrame
  refine (s.checkDetectionTimer_grows now).trans ?_
  dsimp only
  split
  · exact State.onHdlc_grows _ _ now
  · exact .refl _

theorem State.refillIdle_grows : s.OutsideGrows s.refillIdle := by
  unfold State.refillIdle
  split <;> simp

/-- R144: V is refilled with the source's next octet. -/
theorem State.refillV_grows : s.OutsideGrows s.refillV := by
  unfold State.refillV
  split
  · split
    · rename_i b rest hs
      simpa using State.setSource_grows (hs ▸ List.suffix_cons b rest)
    · simp
  · exact .refl s

/-- R144: H is refilled with an I-frame, made from the source's front, or with a frame or flag that reads no source. -/
theorem State.refillH_grows (now : Nat) : s.OutsideGrows (s.refillH now) := by
  unfold State.refillH
  split_ifs
  · exact s.sendIFrame_grows now
  all_goals simp

theorem State.refillRelease_grows : s.OutsideGrows s.refillRelease := by
  unfold State.refillRelease
  split <;> simp

/-- R144: where a bit to send comes from, by the phase. -/
theorem State.lTxBit_grows (now : Nat) : s.OutsideGrows (s.lTxBit now).1 := by
  refine (s.checkDetectionTimer_grows now).trans ?_
  unfold State.lTxBit
  generalize s.checkDetectionTimer now = a
  dsimp only
  cases a.l.phase with
  | none | detection => simpa using a.refillIdle_grows
  | v14 => simpa using a.refillV_grows
  | establish | connected => simpa using a.refillH_grows now
  | release =>
    dsimp only
    split
    · exact a.refillRelease_grows
    · simpa using a.refillRelease_grows

end Procedures

/-! ### The instructions -/

section Instructions

variable {s : State}

/-- Every next state that the outcome `o` answers is one that `s` grows to. -/
def OutGrows (s : State) (o : Out) : Prop := ∀ t, o = .next t → s.OutsideGrows t

theorem outGrows_done {t : State} {r : Result} (h : s.OutsideGrows t) : OutGrows s (done t r) := by
  intro u hu
  rw [done_next_iff] at hu
  simpa [hu] using h

theorem outGrows_whenWritten {w : Bool} {k : Out} (h : OutGrows s k) : OutGrows s (whenWritten w s k) := by
  intro t ht
  rcases whenWritten_next_iff.mp ht with ⟨-, rfl⟩ | ⟨-, hk⟩
  · simp
  · exact h t hk

theorem outGrows_popQueue {q : List Octet} {put : List Octet → State} (h : ∀ r, s.OutsideGrows (put r)) :
    OutGrows s (popQueue q s put) := by
  intro t ht
  rcases popQueue_next_iff.mp ht with ⟨-, rfl⟩ | ⟨b, r, -, rfl⟩
  · simp
  · simpa using h r

theorem outGrows_dInput (d : Decomp) : OutGrows s (dInput s d) := by
  intro t ht
  rcases dInput_next_iff.mp ht with ⟨-, rfl⟩ | ⟨-, -, rfl⟩ | ⟨-, -, rfl⟩ <;> simp

theorem outGrows_lPump {k : Out} (h : OutGrows s k) : OutGrows s (lPump s k) := by
  intro t ht
  rcases lPump_next_iff.mp ht with ⟨-, rfl⟩ | ⟨-, -, rfl⟩ | ⟨-, -, hk⟩
  · simp
  · simp
  · exact h t hk

theorem outGrows_lineArrives (bits : List Bool) (now : Nat) : OutGrows s (lineArrives bits now s) :=
  outGrows_lPump (outGrows_done (s.lRxBits_grows now bits))

theorem outGrows_frameArrives (f : List Octet) (now : Nat) : OutGrows s (frameArrives f now s) :=
  outGrows_lPump (outGrows_done (s.lFrame_grows f now))

/-- The 58 rows by the shape of their meaning: an update of one unit, a log of its events, a POP, octets for D, or what
arrives on the line. -/
theorem exec_outGrows (i : Instr) (s : State) : OutGrows s (exec i s) := by
  cases i with
  | v14Setsb n =>
    refine outGrows_whenWritten ?_
    split
    · exact outGrows_done (.refl s)
    · exact outGrows_done (by simp)
  | v14Tx | v14Flush | v14Rsb | hCrc16 | hSendframe | hSendflag | cWrite | cCmode | cFlush =>
    exact outGrows_whenWritten (outGrows_done (by simp))
  | v14Rx | v14Rxbit => exact outGrows_whenWritten (outGrows_done (.trans (by simp) (State.log_grows _ _)))
  | v14Pop | hPop | cPop | dPop => exact outGrows_whenWritten (outGrows_popQueue (by simp))
  | v14Reset | hReset | lReset | cReset | dReset => exact outGrows_done (by simp)
  | hRxbit b =>
    refine outGrows_whenWritten ?_
    split
    · exact outGrows_done (by simp)
    · exact outGrows_done (by simp)
    · exact outGrows_done (.trans (by simp) (State.log_grows _ _))
  | lRxbit b now => exact outGrows_lPump (outGrows_done (s.lRxBit_grows b now))
  | lTxbit now => exact outGrows_lPump (outGrows_done (s.lTxBit_grows now))
  | v14Char | odp | adp | flag | abort | frame => exact outGrows_lineArrives _ _
  | iFrame | rr | rnr | rej | srej | sOther | sabme | disc | ua | xid | uOther | xidFi | xidGroupPublic
  | xidGroupPrivate | xidGroupUserdata | xidParamTxsize | xidParamWindow | xidParamCompreq =>
    exact outGrows_frameArrives _ _
  | dWrite | tData | ecm | eid | tReset | tBadcmd | cwEtm | cwFlush | cwStepup | cwData => exact outGrows_dInput _

end Instructions

/-- Settles O55: `OutsideGrows` of every instruction, row by row in `exec_outGrows`. -/
theorem outsideGrowsOnly : Obligations.OutsideGrowsOnly := fun i s t h => exec_outGrows i s t h

end Sys2Proof.Machine
end

section
/-!
SUPPORT. The procedures of V, H and L keep the legal values of their registers (10_state.md R12 to R14, R21).
-/

namespace Sys2Proof.Machine

/-! ### Unit V -/

section V

variable {v : V14}

theorem V14.transmitBits_inv (hv : v.inv) (bits : List Bool) : (v.transmitBits bits).inv :=
  (V14.transmitBits_queued hv bits).2.1

theorem V14.tx_inv (hv : v.inv) (b : Octet) : (v.tx b).inv := V14.transmitBits_inv hv _

theorem V14.fillOnes_inv (hv : v.inv) (fuel : Nat) : (V14.fillOnes fuel v).inv := by
  induction fuel generalizing v with
  | zero => exact hv
  | succ n ih =>
    unfold V14.fillOnes
    split
    · exact hv
    · exact ih (V14.transmitBit_queued hv true).2.1

theorem V14.flush_inv (hv : v.inv) : v.flush.inv := by
  unfold V14.flush
  split
  · exact V14.fillOnes_inv hv 8
  · exact V14.transmitBits_inv hv _

theorem V14.nextMissGap_le (v : V14) : v.nextMissGap.toNat ≤ 5 := by
  unfold V14.nextMissGap
  split
  · bv_omega
  · decide

/-- R84: a new character is empty, whatever the old one was. -/
theorem V14.startChar_inv (htx : 1 ≤ v.txStopBits) (hcur : v.txCurByte >>> v.txBitCount.toNat = 0)
    (hgap : v.missGap.toNat ≤ 5) : v.startChar.inv :=
  ⟨by simp [V14.startChar], by simp [V14.startChar], htx, by simp [V14.startChar], hcur, hgap⟩

/-- R84: a data bit goes where the octet is still 0, and the eighth ends the character. -/
theorem V14.rxData_inv (hv : v.inv) (hr : v.rxState = .receiving) (b : Bool) : (v.rxData b).v.inv := by
  obtain ⟨-, hrec, hstop, hrx, htx, hgap⟩ := hv
  have h7 := hrec hr
  have hcnt : (v.rxBitCount + 1).toNat = v.rxBitCount.toNat + 1 := by bv_omega
  have hcur := (take_octetBits_orBit v.rxCurByte v.rxBitCount.toNat b (by omega) hrx).2
  unfold V14.rxData
  dsimp only
  rw [← hcnt] at hcur
  split
  · exact ⟨by show (v.rxBitCount + 1).toNat ≤ 8; omega, nofun, hstop, hcur, htx, v.nextMissGap_le⟩
  · rename_i hne
    have h8 : (v.rxBitCount + 1).toNat ≠ 8 := fun h => hne (BitVec.eq_of_toNat_eq (by simpa using h))
    exact ⟨by show (v.rxBitCount + 1).toNat ≤ 8; omega, fun _ => by show (v.rxBitCount + 1).toNat ≤ 7; omega,
      hstop, hcur, htx, hgap⟩

theorem V14.rxBit_inv (hv : v.inv) (b : Bool) : (v.rxBit b).v.inv := by
  obtain ⟨hcnt, hrec, hstop, hrx, htx, hgap⟩ := id hv
  unfold V14.rxBit
  split
  · split
    · exact hv
    · exact V14.startChar_inv hstop htx hgap
  · exact V14.rxData_inv hv ‹_› b
  · split
    · exact ⟨hcnt, nofun, hstop, hrx, htx, hgap⟩
    · exact V14.startChar_inv (v := { v with missGap := 0 }) hstop htx (by simp)

theorem V14.rxBits_inv (hv : v.inv) (bits : List Bool) : (v.rxBits bits).v.inv := by
  induction bits generalizing v with
  | nil => exact hv
  | cons b bs ih => exact ih (V14.rxBit_inv hv b)

theorem V14.atReset_inv : V14.atReset.inv := by decide

end V

/-! ### Unit H -/

section H

variable {h : Hdlc}

theorem Hdlc.sendFlag_inv (hh : h.inv) : h.sendFlag.inv := by
  obtain ⟨-, hraw, -⟩ := Hdlc.rawBits_lineBits hh (octetBits Config.flag)
  unfold Hdlc.sendFlag
  generalize (octetBits Config.flag).foldl Hdlc.rawBit h = k at hraw ⊢
  obtain ⟨htx, hrx, -⟩ := hraw
  exact ⟨htx, hrx, Nat.zero_le 4⟩

theorem Hdlc.stuffBits_inv (hh : h.inv) (bits : List Bool) : (bits.foldl Hdlc.stuffBit h).inv := by
  induction bits generalizing h with
  | nil => exact hh
  | cons b bs ih => exact ih (Hdlc.stuffBit_lineBits hh b).2.1

theorem Hdlc.sendFrame_inv (hh : h.inv) (f : List Octet) : (h.sendFrame f).inv :=
  Hdlc.sendFlag_inv (Hdlc.stuffBits_inv (Hdlc.sendFlag_inv hh) _)

theorem Hdlc.fillOnes_inv (hh : h.inv) (fuel : Nat) : (Hdlc.fillOnes fuel h).inv := by
  induction fuel generalizing h with
  | zero => exact hh
  | succ n ih =>
    unfold Hdlc.fillOnes
    split
    · exact hh
    · exact ih (Hdlc.rawBit_lineBits hh true).2.1

theorem Hdlc.dropFrame_inv (hh : h.inv) : h.dropFrame.inv := ⟨hh.1, by simp [Hdlc.dropFrame], hh.2.2⟩

/-- R105: whatever the run of 1s, a received bit is shifted in, dropped, or ends the frame in progress. -/
theorem Hdlc.rxBit_inv (hh : h.inv) (b : Bool) : (h.rxBit b).1.inv := by
  have hones : ∀ n, ({ h with rxOnes := n } : Hdlc).inv := fun n => hh
  unfold Hdlc.rxBit
  dsimp only
  split_ifs
  · exact hh
  · exact Hdlc.dropFrame_inv (hones _)
  · exact (Hdlc.shift_shifted (hones _) true).2.1
  · exact hones _
  · exact Hdlc.dropFrame_inv (hones _)
  · exact (Hdlc.shift_shifted (hones _) false).2.1

theorem Hdlc.atReset_inv : Hdlc.atReset.inv := by decide

end H

/-! ### Unit L -/

section L

variable {l : Lapm}

/-- R30: what a store of a frame with its header octets leaves in the index space `sent`. -/
theorem Lapm.inv_store (hl : l.inv) (q : SeqNum) {fr : List Octet} (hfr : 3 ≤ fr.length) :
    ({ l with sentIFrames := Cells.insert l.sentIFrames q.toNat fr } : Lapm).inv := by
  obtain ⟨hodp, hnone, hlast, hsent⟩ := hl
  refine ⟨hodp, hnone, hlast, fun e he => ?_⟩
  rcases Cells.mem_insert he with rfl | he
  · exact ⟨q.isLt, hfr⟩
  · exact hsent e he

/-- R125: acknowledgement only erases stored frames. -/
theorem Lapm.ackTo_inv (hl : l.inv) (nr : SeqNum) (fuel : Nat) : (Lapm.ackTo nr fuel l).inv := by
  induction fuel generalizing l with
  | zero => exact hl
  | succ n ih =>
    unfold Lapm.ackTo
    split
    · exact hl
    · obtain ⟨hodp, hnone, hlast, hsent⟩ := hl
      exact ih ⟨hodp, hnone, hlast, fun e he => hsent e (Cells.mem_erase he)⟩

/-- A change of phase to another than None is free of R14's conditions. -/
theorem Lapm.inv_phase (hl : l.inv) {ph : Phase} (hph : ph ≠ .none) : ({ l with phase := ph } : Lapm).inv := by
  obtain ⟨hodp, -, hlast, hsent⟩ := hl
  exact ⟨hodp, fun h => absurd h hph, hlast, hsent⟩

/-- R146: an XID learns the sizes and nothing else. -/
theorem xidParamsEffect_inv (p : Params) (gi : Octet) (hl : l.inv) (ps : List XidParam) :
    (xidParamsEffect p gi l ps).1.inv := by
  induction ps generalizing l with
  | nil => exact hl
  | cons x xs ih =>
    refine ih ?_
    unfold xidParamEffect
    split_ifs <;> exact hl

theorem xidEffect_inv (p : Params) (hl : l.inv) (gs : List XidGroup) : (xidEffect p l gs).1.inv := by
  induction gs generalizing l with
  | nil => exact hl
  | cons g gs ih =>
    refine ih ?_
    cases g with
    | params gi ps => exact xidParamsEffect_inv p gi hl ps
    | skipped gi content => exact hl

/-- R127: before ADP at most three repetitions have been counted, so the next is at most the fourth. -/
theorem Lapm.countOdp_legal (hl : l.inv) (hadp : l.adpSent = false) (c : Octet) (n : Nat) :
    (l.countOdp c n).odpCount.toNat ≤ 4 ∧ ∀ d ∈ (l.countOdp c n).lastOdp, isDc1 d = true := by
  have h3 : l.odpCount.toNat ≤ 3 := hl.1.resolve_right (by simp [hadp])
  unfold Lapm.countOdp
  split_ifs with hcont hdc1
  · refine ⟨by show (l.odpCount + 1).toNat ≤ 4; bv_omega, fun d hd => ?_⟩
    simp only [Lapm.continuesOdp, Bool.and_eq_true] at hcont
    cases hd
    exact hcont.1.1.1
  · refine ⟨by simp, fun d hd => ?_⟩
    cases hd
    exact hdc1
  · exact ⟨by simp, nofun⟩

/-- R127: counting a character writes the count and the last character only. -/
theorem Lapm.countOdp_eq (l : Lapm) (c : Octet) (n : Nat) :
    l.countOdp c n = { l with odpCount := (l.countOdp c n).odpCount, lastOdp := (l.countOdp c n).lastOdp } := by
  unfold Lapm.countOdp
  split_ifs <;> rfl

theorem Lapm.atReset_inv (p : Params) : (Lapm.atReset p).inv :=
  ⟨.inl (Nat.zero_le 3), fun _ => rfl, nofun, nofun⟩

end L

end Sys2Proof.Machine
end

section
/-!
SUPPORT. What the procedures of L keep of the block (42_lapm.md): the legal values of V, H and L, and C and D but for the
octets that they are driven with under compression (10_state.md R10, R150).
-/

namespace Sys2Proof.Machine

/-! ### The relation -/

/-- The legal values of the line units (R12 to R14, R21). -/
def State.lineInv (s : State) : Prop := s.v.inv ∧ s.h.inv ∧ s.l.inv

/-- What L does to C in one call, with compression on (R150). -/
def Comp.Driven (p : Params) (c k : Comp) : Prop :=
  p.compEnabled = true ∧ ((∃ b, k = c.write p b) ∨ k = c.flush p ∨ k = { c with out := [] })

/-- What L does to D in one call, with compression on (R150). -/
def Decomp.Driven (p : Params) (d k : Decomp) : Prop :=
  p.compEnabled = true ∧ ((∃ b, k = d.write p b) ∨ k = { d with out := [] })

/-- What a procedure of L leads from `s` to `t` by: legal values of the line units stay legal, and C and D change by L's
calls only (R10, R150). -/
structure State.LKeeps (s t : State) : Prop where
  line    : s.lineInv → t.lineInv
  written : t.written = s.written
  cfg     : t.cfg = s.cfg
  comp    : Relation.ReflTransGen (Comp.Driven s.cfg) s.c t.c
  decomp  : Relation.ReflTransGen (Decomp.Driven s.cfg) s.d t.d

section Relation

variable {s t u : State}

theorem State.LKeeps.refl (s : State) : s.LKeeps s := ⟨id, rfl, rfl, .refl, .refl⟩

theorem State.LKeeps.trans (h : s.LKeeps t) (k : t.LKeeps u) : s.LKeeps u where
  line := k.line ∘ h.line
  written := k.written.trans h.written
  cfg := k.cfg.trans h.cfg
  comp := h.comp.trans (h.cfg ▸ k.comp)
  decomp := h.decomp.trans (h.cfg ▸ k.decomp)

/-- R10: with compression off an operation of L leaves C alone. -/
theorem State.LKeeps.c_eq (h : s.LKeeps t) (hoff : s.cfg.compEnabled = false) : t.c = s.c :=
  match Relation.ReflTransGen.cases_head h.comp with
  | .inl he => he.symm
  | .inr ⟨_, ⟨hon, _⟩, _⟩ => absurd hon (by simp [hoff])

/-- R10: with compression off an operation of L leaves D alone. -/
theorem State.LKeeps.d_eq (h : s.LKeeps t) (hoff : s.cfg.compEnabled = false) : t.d = s.d :=
  match Relation.ReflTransGen.cases_head h.decomp with
  | .inl he => he.symm
  | .inr ⟨_, ⟨hon, _⟩, _⟩ => absurd hon (by simp [hoff])

/-! A lemma for each update of State that L's procedures are made of. -/

theorem State.lKeeps_setV {x : V14} (h : s.v.inv → x.inv) : s.LKeeps (s.setV x) :=
  ⟨fun ⟨hv, hh, hl⟩ => ⟨h hv, hh, hl⟩, rfl, rfl, .refl, .refl⟩

theorem State.lKeeps_setH {x : Hdlc} (h : s.h.inv → x.inv) : s.LKeeps (s.setH x) :=
  ⟨fun ⟨hv, hh, hl⟩ => ⟨hv, h hh, hl⟩, rfl, rfl, .refl, .refl⟩

theorem State.lKeeps_setL {x : Lapm} (h : s.l.inv → x.inv) : s.LKeeps (s.setL x) :=
  ⟨fun ⟨hv, hh, hl⟩ => ⟨hv, hh, h hl⟩, rfl, rfl, .refl, .refl⟩

theorem State.lKeeps_setC {x : Comp} (h : Relation.ReflTransGen (Comp.Driven s.cfg) s.c x) : s.LKeeps (s.setC x) :=
  ⟨id, rfl, rfl, h, .refl⟩

theorem State.lKeeps_setD {x : Decomp} (h : Relation.ReflTransGen (Decomp.Driven s.cfg) s.d x) :
    s.LKeeps (s.setD x) := ⟨id, rfl, rfl, .refl, h⟩

theorem State.lKeeps_setSource (octets : List Octet) : s.LKeeps (s.setSource octets) := ⟨id, rfl, rfl, .refl, .refl⟩

theorem State.lKeeps_log (es : List Event) : s.LKeeps (s.log es) := ⟨id, rfl, rfl, .refl, .refl⟩

theorem State.lKeeps_answer (r : Result) : s.LKeeps (s.answer r) := ⟨id, rfl, rfl, .refl, .refl⟩

theorem State.lKeeps_sinkWrite (b : Octet) : s.LKeeps (s.sinkWrite b) := ⟨id, rfl, rfl, .refl, .refl⟩

theorem State.lKeeps_sinkWrites (octets : List Octet) : s.LKeeps (octets.foldl State.sinkWrite s) := by
  induction octets generalizing s with
  | nil => exact .refl s
  | cons o os ih => exact (State.lKeeps_sinkWrite o).trans ih

theorem State.lKeeps_lSend (f : List Octet) (now : Nat) : s.LKeeps (s.lSend f now) :=
  .trans (State.lKeeps_setH fun hh => Hdlc.sendFrame_inv hh f) (State.lKeeps_setL id)

end Relation

/-! ### The internal procedures of L -/

section Procedures

variable (s : State)

/-- R150: C is given the octets one by one. -/
theorem Comp.driven_writes {p : Params} (hon : p.compEnabled = true) (c : Comp) (octets : List Octet) :
    Relation.ReflTransGen (Comp.Driven p) c (octets.foldl (Comp.write p) c) := by
  induction octets generalizing c with
  | nil => exact .refl
  | cons b bs ih => exact .head ⟨hon, .inl ⟨b, rfl⟩⟩ (ih _)

theorem State.gather_keeps (k : Nat) : s.LKeeps (s.gather k).2 := by
  unfold State.gather
  split
  · rename_i hon
    refine .trans (State.lKeeps_setSource _) (State.lKeeps_setC ?_)
    exact ((Comp.driven_writes hon s.c _).tail ⟨hon, .inr (.inl rfl)⟩).tail ⟨hon, .inr (.inr rfl)⟩
  · exact State.lKeeps_setSource _

theorem State.sendIFrame_keeps (now : Nat) : s.LKeeps (s.sendIFrame now) := by
  refine (s.gather_keeps _).trans (.trans (State.lKeeps_lSend _ now) (State.lKeeps_setL fun hl => ?_))
  exact Lapm.inv_store hl _ (by simp)

theorem State.ackIFrame_keeps (nr : SeqNum) : s.LKeeps (s.ackIFrame nr) := by
  unfold State.ackIFrame
  split
  · exact State.lKeeps_setL fun hl => Lapm.ackTo_inv hl nr 128
  · exact State.lKeeps_log _

/-- R136: a frame that is sent again keeps its header octets. -/
theorem State.resend_keeps (q : SeqNum) (now : Nat) : s.LKeeps (s.resend q now) := by
  unfold State.resend
  split
  · exact .refl s
  · rename_i fr hfr
    refine .trans (State.lKeeps_setL fun hl => ?_) (State.lKeeps_lSend _ now)
    have hlen : 3 ≤ fr.length := (hl.2.2.2 _ (Cells.mem_of_lookup hfr)).2
    exact Lapm.inv_store hl q (by simpa [renumber] using hlen)

theorem State.resendFrom_keeps (now fuel : Nat) (q : SeqNum) : s.LKeeps (State.resendFrom now fuel q s) := by
  induction fuel generalizing q s with
  | zero => exact .refl s
  | succ n ih =>
    unfold State.resendFrom
    split
    · exact .refl s
    · exact (s.resend_keeps q now).trans (ih _ _)

theorem State.handleReject_keeps (nr : SeqNum) (now : Nat) : s.LKeeps (s.handleReject nr now) := by
  unfold State.handleReject
  dsimp only
  split
  · exact (s.ackIFrame_keeps nr).trans (State.resendFrom_keeps _ _ _ _)
  · exact s.ackIFrame_keeps nr

/-- R150: D is given the octet, and what it puts out is taken. -/
theorem State.deliver_keeps (x : Octet) : s.LKeeps (s.deliver x) := by
  unfold State.deliver
  split
  · rename_i hon
    have hw : Relation.ReflTransGen (Decomp.Driven s.cfg) s.d (s.d.write s.cfg x) := .single ⟨hon, .inl ⟨x, rfl⟩⟩
    dsimp only
    split
    · exact .trans (State.lKeeps_setD hw) (State.lKeeps_setL id)
    · exact .trans (State.lKeeps_setD (hw.tail ⟨hon, .inr rfl⟩)) (State.lKeeps_sinkWrites _)
  · exact State.lKeeps_sinkWrite x

theorem State.deliverAll_keeps (xs : List Octet) : s.LKeeps (s.deliverAll xs) := by
  induction xs generalizing s with
  | nil => exact .refl s
  | cons x xs ih =>
    unfold State.deliverAll
    split
    · exact s.deliver_keeps x
    · exact (s.deliver_keeps x).trans (ih _)

theorem State.replyRr_keeps (addr : Octet) (p : Bool) (now : Nat) : s.LKeeps (s.replyRr addr p now) := by
  unfold State.replyRr
  split
  · exact State.lKeeps_lSend _ now
  · exact .refl s

theorem State.handleIFrame_keeps (f : List Octet) (now : Nat) : s.LKeeps (s.handleIFrame f now) := by
  refine (s.ackIFrame_keeps (seqField (f.getD 2 0))).trans ?_
  unfold State.handleIFrame
  dsimp only
  generalize s.ackIFrame (seqField (f.getD 2 0)) = a
  split
  · exact State.lKeeps_lSend _ now
  · have hset : a.LKeeps (a.setL { a.l with rxSeqNum := incMod128 a.l.rxSeqNum }) := State.lKeeps_setL id
    have hd := hset.trans (State.deliverAll_keeps _ ((f.drop 3).take (f.length - 5)))
    split
    · exact hd
    · exact hd.trans (State.replyRr_keeps _ _ _ _)

theorem State.handleSabme_keeps (addr : Octet) (pf : Bool) (now : Nat) : s.LKeeps (s.handleSabme addr pf now) :=
  .trans (State.lKeeps_lSend _ now) (State.lKeeps_setL fun ⟨hodp, _, hlast, _⟩ => ⟨hodp, nofun, hlast, nofun⟩)

theorem State.handleDisc_keeps (addr : Octet) (pf : Bool) (now : Nat) : s.LKeeps (s.handleDisc addr pf now) :=
  .trans (State.lKeeps_lSend _ now) (State.lKeeps_setL fun hl => Lapm.inv_phase hl nofun)

theorem State.handleXid_keeps (f : List Octet) (now : Nat) : s.LKeeps (s.handleXid f now) := by
  unfold State.handleXid
  split
  · exact State.lKeeps_log _
  · exact .trans (.trans (State.lKeeps_setL fun hl => xidEffect_inv _ hl _) (State.lKeeps_log _))
      (State.lKeeps_lSend _ now)

theorem State.handleS_keeps (c : Octet) (nr : SeqNum) (now : Nat) : s.LKeeps (s.handleS c nr now) := by
  unfold State.handleS
  split_ifs
  · exact s.ackIFrame_keeps nr
  · exact s.ackIFrame_keeps nr
  · exact s.handleReject_keeps nr now
  · exact State.lKeeps_log _

theorem State.handleU_keeps (f : List Octet) (now : Nat) : s.LKeeps (s.handleU f now) := by
  unfold State.handleU
  dsimp only
  split_ifs
  · exact s.handleSabme_keeps _ _ now
  · exact s.handleDisc_keeps _ _ now
  · exact s.handleXid_keeps f now
  · exact State.lKeeps_log _

/-- R132: a frame is dropped, logged, or handled by its class. -/
theorem State.handleFrame_keeps (f : List Octet) (now : Nat) : s.LKeeps (s.handleFrame f now) := by
  unfold State.handleFrame
  dsimp only
  split_ifs
  · exact .refl s
  · exact State.lKeeps_log _
  · exact State.lKeeps_log _
  · exact s.handleIFrame_keeps f now
  · exact State.lKeeps_log _
  · exact s.handleS_keeps _ _ now
  · exact s.handleU_keeps f now

theorem State.checkDetectionTimer_keeps (now : Nat) : s.LKeeps (s.checkDetectionTimer now) := by
  unfold State.checkDetectionTimer
  split
  · exact State.lKeeps_setL fun hl => Lapm.inv_phase hl nofun
  · exact .refl s

theorem State.vBit_keeps (b : Bool) : s.LKeeps (s.vBit b).1 :=
  .trans (State.lKeeps_setV fun hv => V14.rxBit_inv hv b) (State.lKeeps_log _)

/-- R127: the first character ends phase None, with at most one repetition counted. -/
theorem State.firstChar_keeps (c : Octet) (now : Nat) : s.LKeeps (s.firstChar c now) := by
  unfold State.firstChar
  split
  · rename_i hdc1
    refine State.lKeeps_setL fun ⟨_, _, _, hsent⟩ => ⟨.inl (Nat.le_of_ble_eq_true rfl), nofun, fun d hd => ?_, hsent⟩
    cases hd
    exact hdc1
  · exact .trans (State.lKeeps_setL fun hl => Lapm.inv_phase hl (ph := .v14) nofun) (State.lKeeps_sinkWrite c)

/-- V after `SendAdp` (R128). -/
def V14.queueAdp (v : V14) : V14 := ({ v with txStopBits := Config.adpStopBits }.tx Config.adpE).tx Config.adpC

theorem V14.queueAdp_inv {v : V14} (hv : v.inv) : v.queueAdp.inv := by
  obtain ⟨hcnt, hrec, -, hrx, htx, hgap⟩ := hv
  have h9 : ({ v with txStopBits := Config.adpStopBits } : V14).inv :=
    ⟨hcnt, hrec, Nat.le_of_ble_eq_true rfl, hrx, htx, hgap⟩
  exact V14.tx_inv (V14.tx_inv h9 _) _

theorem State.sendAdp_setL (k : Lapm) :
    (s.setL k).sendAdp = (s.setV s.v.queueAdp).setL { k with adpSent := true } := rfl

/-- R127, R128: the fourth repetition is counted and ADP sent in one: between the two R14 does not hold. -/
theorem State.nextChar_keeps (c : Octet) (n : Nat) (hphase : s.l.phase ≠ .none) (hadp : s.l.adpSent = false) :
    s.LKeeps (s.nextChar c n) := by
  have hphase' : (s.l.countOdp c n).phase ≠ .none := by rwa [Lapm.countOdp_eq]
  have hsent' : (s.l.countOdp c n).sentIFrames = s.l.sentIFrames := by rw [Lapm.countOdp_eq]
  have hlegal := fun hl => Lapm.countOdp_legal (l := s.l) hl hadp c n
  unfold State.nextChar
  generalize s.l.countOdp c n = k at hphase' hsent' hlegal ⊢
  dsimp only
  split_ifs with h4
  · rw [State.sendAdp_setL]
    have hsent : s.l.inv → ({ k with adpSent := true } : Lapm).inv := fun hl => by
      obtain ⟨-, hlast⟩ := hlegal hl
      obtain ⟨-, -, -, hsent⟩ := hl
      exact ⟨.inr ⟨h4, rfl⟩, fun h => absurd h hphase', hlast, hsent' ▸ hsent⟩
    exact .trans (State.lKeeps_setV V14.queueAdp_inv) (State.lKeeps_setL hsent)
  · refine State.lKeeps_setL fun hl => ?_
    obtain ⟨hle, hlast⟩ := hlegal hl
    obtain ⟨-, -, -, hsent⟩ := hl
    have hne : k.odpCount.toNat ≠ 4 := fun h => h4 (BitVec.eq_of_toNat_eq h)
    exact ⟨.inl (by omega), fun h => absurd h hphase', hlast, hsent' ▸ hsent⟩

theorem State.detectBit_keeps (b : Bool) (now : Nat) (hadp : s.l.adpSent = false) : s.LKeeps (s.detectBit b now) := by
  refine (s.vBit_keeps b).trans ?_
  have hadp' : (s.vBit b).1.l.adpSent = false := hadp
  unfold State.detectBit
  generalize s.vBit b = r at hadp' ⊢
  obtain ⟨t, char⟩ := r
  cases char with
  | none => exact .refl t
  | some c =>
    dsimp only
    refine .trans (State.lKeeps_setV (x := t.v.takeRun) id) ?_
    split
    · exact State.firstChar_keeps _ c now
    · exact State.nextChar_keeps _ c _ ‹_› hadp'

theorem State.passBit_keeps (b : Bool) : s.LKeeps (s.passBit b) := by
  refine (s.vBit_keeps b).trans ?_
  unfold State.passBit
  generalize s.vBit b = r
  obtain ⟨t, char⟩ := r
  cases char with
  | none => exact .refl t
  | some c => exact State.lKeeps_sinkWrite c

theorem State.onHdlc_keeps (r : HdlcResult) (now : Nat) : s.LKeeps (s.onHdlc r now) := by
  unfold State.onHdlc
  cases s.l.phase with
  | none | detection =>
    cases r with
    | frame f => exact State.lKeeps_setL fun hl => Lapm.inv_phase hl (ph := .establish) nofun
    | abort | none => exact .refl s
  | establish | connected =>
    cases r with
    | frame f => exact s.handleFrame_keeps f now
    | abort => exact State.lKeeps_log _
    | none => exact .refl s
  | v14 | release => exact .refl s

theorem State.hBit_keeps (b : Bool) (now : Nat) : s.LKeeps (s.hBit b now) :=
  .trans (State.lKeeps_setH fun hh => Hdlc.rxBit_inv hh b) (State.onHdlc_keeps _ _ now)

/-- R126: where a received bit goes, by the phase. -/
theorem State.lRxBit_keeps (b : Bool) (now : Nat) : s.LKeeps (s.lRxBit b now) := by
  refine (s.checkDetectionTimer_keeps now).trans ?_
  unfold State.lRxBit
  generalize s.checkDetectionTimer now = a
  dsimp only
  cases a.l.phase with
  | none | detection =>
    dsimp only
    split
    · exact a.hBit_keeps b now
    · exact a.detectBit_keeps b now (by simpa using ‹¬ a.l.adpSent = true›)
  | v14 => exact a.passBit_keeps b
  | establish | connected => exact a.hBit_keeps b now
  | release => exact .refl a

theorem State.lRxBits_keeps (now : Nat) (bits : List Bool) : s.LKeeps (s.lRxBits now bits) := by
  induction bits generalizing s with
  | nil => exact .refl s
  | cons b bs ih =>
    unfold State.lRxBits
    split
    · exact s.lRxBit_keeps b now
    · exact (s.lRxBit_keeps b now).trans (ih _)

theorem State.lFrame_keeps (f : List Octet) (now : Nat) : s.LKeeps (s.lFrame f now) := by
  refine (s.checkDetectionTimer_keeps now).trans ?_
  unfold State.lFrame
  dsimp only
  split
  · exact State.onHdlc_keeps _ _ now
  · exact .refl _

theorem State.refillIdle_keeps : s.LKeeps s.refillIdle := by
  unfold State.refillIdle
  split
  · exact State.lKeeps_setV V14.flush_inv
  · exact .refl s

theorem State.refillV_keeps : s.LKeeps s.refillV := by
  unfold State.refillV
  split
  · split
    · exact .trans (State.lKeeps_setSource _) (State.lKeeps_setV fun hv => V14.tx_inv hv _)
    · exact State.lKeeps_setV V14.flush_inv
  · exact .refl s

theorem State.refillH_keeps (now : Nat) : s.LKeeps (s.refillH now) := by
  unfold State.refillH
  split_ifs
  · exact s.sendIFrame_keeps now
  · exact State.lKeeps_lSend _ now
  · exact State.lKeeps_setH Hdlc.sendFlag_inv
  · exact .refl s

theorem State.refillRelease_keeps : s.LKeeps s.refillRelease := by
  unfold State.refillRelease
  split
  · exact State.lKeeps_setH fun hh => Hdlc.fillOnes_inv hh 8
  · exact .refl s

theorem State.popV_keeps : s.LKeeps s.popV := ⟨id, rfl, rfl, .refl, .refl⟩

theorem State.popH_keeps : s.LKeeps s.popH := ⟨id, rfl, rfl, .refl, .refl⟩

/-- R144: where a bit to send comes from, by the phase. -/
theorem State.lTxBit_keeps (now : Nat) : s.LKeeps (s.lTxBit now).1 := by
  refine (s.checkDetectionTimer_keeps now).trans ?_
  unfold State.lTxBit
  generalize s.checkDetectionTimer now = a
  dsimp only
  cases a.l.phase with
  | none | detection => exact a.refillIdle_keeps.trans (State.popV_keeps _)
  | v14 => exact a.refillV_keeps.trans (State.popV_keeps _)
  | establish | connected => exact (a.refillH_keeps now).trans (State.popH_keeps _)
  | release =>
    dsimp only
    split
    · exact a.refillRelease_keeps
    · exact a.refillRelease_keeps.trans (State.popH_keeps _)

end Procedures

end Sys2Proof.Machine
end

section
/-!
SUPPORT. What an instruction does to the units, by the unit whose operation it is (10_state.md R10, R12 to R14, R21).
-/

namespace Sys2Proof.Machine

/-! ### Outcomes -/

section Outcomes

variable {s : State} {P : State → Prop}

/-- Every next state that the outcome `o` answers has the property `P`. -/
def AllNext (P : State → Prop) (o : Out) : Prop := ∀ t, o = .next t → P t

theorem allNext_done {t : State} {r : Result} (h : P (t.answer r)) : AllNext P (done t r) := fun _ hu =>
  done_next_iff.mp hu ▸ h

theorem allNext_whenWritten {w : Bool} {k : Out} (hr : ∀ r, P (s.answer r)) (h : AllNext P k) :
    AllNext P (whenWritten w s k) := by
  intro t ht
  rcases whenWritten_next_iff.mp ht with ⟨-, rfl⟩ | ⟨-, hk⟩
  · exact hr _
  · exact h t hk

theorem allNext_popQueue {q : List Octet} {put : List Octet → State} (hr : ∀ r, P (s.answer r))
    (h : ∀ rest r, P ((put rest).answer r)) : AllNext P (popQueue q s put) := by
  intro t ht
  rcases popQueue_next_iff.mp ht with ⟨-, rfl⟩ | ⟨b, rest, -, rfl⟩
  · exact hr _
  · exact h rest _

theorem allNext_dInput {d : Decomp} (hr : ∀ r, P (s.answer r))
    (h : s.d.fault = none → ∀ r, P ((s.setD d).answer r)) : AllNext P (dInput s d) := by
  intro t ht
  rcases dInput_next_iff.mp ht with ⟨-, rfl⟩ | ⟨-, -, rfl⟩ | ⟨-, hf, rfl⟩
  · exact hr _
  · exact hr _
  · exact h hf _

theorem allNext_lPump {k : Out} (hr : ∀ r, P (s.answer r)) (h : AllNext P k) : AllNext P (lPump s k) := by
  intro t ht
  rcases lPump_next_iff.mp ht with ⟨-, rfl⟩ | ⟨-, -, rfl⟩ | ⟨-, -, hk⟩
  · exact hr _
  · exact hr _
  · exact h t hk

end Outcomes

/-! ### The frame of an operation of V, H, C or D (R10) -/

section Frames

variable {i : Instr} (s : State)

/-- Nothing but V, its written flag, the trace and the answer differs. -/
def State.OnlyV (t : State) : Prop := t = { s with v := t.v, written := t.written, trace := t.trace, result := t.result }

/-- Nothing but H, its written flag, the trace and the answer differs. -/
def State.OnlyH (t : State) : Prop := t = { s with h := t.h, written := t.written, trace := t.trace, result := t.result }

/-- Nothing but C, its written flag and the answer differs. -/
def State.OnlyC (t : State) : Prop := t = { s with c := t.c, written := t.written, result := t.result }

/-- Nothing but D, its written flag and the answer differs. -/
def State.OnlyD (t : State) : Prop := t = { s with d := t.d, written := t.written, result := t.result }

/-! An answer, and the unit's registers as any given values, with events where the unit logs. -/

theorem State.onlyV_answer (r : Result) : s.OnlyV (s.answer r) := rfl
theorem State.onlyV_setV (x : V14) (r : Result) : s.OnlyV ((s.setV x).answer r) := rfl
theorem State.onlyV_log (x : V14) (es : List Event) (r : Result) : s.OnlyV (((s.setV x).log es).answer r) := rfl
theorem State.onlyH_answer (r : Result) : s.OnlyH (s.answer r) := rfl
theorem State.onlyH_setH (x : Hdlc) (r : Result) : s.OnlyH ((s.setH x).answer r) := rfl
theorem State.onlyH_log (x : Hdlc) (es : List Event) (r : Result) : s.OnlyH (((s.setH x).log es).answer r) := rfl
theorem State.onlyC_answer (r : Result) : s.OnlyC (s.answer r) := rfl
theorem State.onlyC_setC (x : Comp) (r : Result) : s.OnlyC ((s.setC x).answer r) := rfl
theorem State.onlyD_answer (r : Result) : s.OnlyD (s.answer r) := rfl
theorem State.onlyD_setD (x : Decomp) (r : Result) : s.OnlyD ((s.setD x).answer r) := rfl

variable {s}

theorem exec_onlyV (hi : unitOf i = .v) : AllNext s.OnlyV (exec i s) := by
  cases i with
  | v14Setsb n =>
    refine allNext_whenWritten s.onlyV_answer ?_
    split
    · exact allNext_done (s.onlyV_answer _)
    · exact allNext_done (s.onlyV_setV _ _)
  | v14Tx | v14Flush | v14Rsb => exact allNext_whenWritten s.onlyV_answer (allNext_done (s.onlyV_setV _ _))
  | v14Rx | v14Rxbit => exact allNext_whenWritten s.onlyV_answer (allNext_done (s.onlyV_log _ _ _))
  | v14Pop =>
    exact allNext_whenWritten s.onlyV_answer (allNext_popQueue s.onlyV_answer fun _ => s.onlyV_setV _)
  | v14Reset => exact allNext_done rfl
  | _ => cases hi

theorem exec_onlyH (hi : unitOf i = .h) : AllNext s.OnlyH (exec i s) := by
  cases i with
  | hCrc16 => exact allNext_whenWritten s.onlyH_answer (allNext_done (s.onlyH_answer _))
  | hSendframe | hSendflag => exact allNext_whenWritten s.onlyH_answer (allNext_done (s.onlyH_setH _ _))
  | hRxbit b =>
    refine allNext_whenWritten s.onlyH_answer ?_
    split
    · exact allNext_done (s.onlyH_setH _ _)
    · exact allNext_done (s.onlyH_setH _ _)
    · exact allNext_done (s.onlyH_log _ _ _)
  | hPop => exact allNext_whenWritten s.onlyH_answer (allNext_popQueue s.onlyH_answer fun _ => s.onlyH_setH _)
  | hReset => exact allNext_done rfl
  | _ => cases hi

theorem exec_onlyC (hi : unitOf i = .c) : AllNext s.OnlyC (exec i s) := by
  cases i with
  | cWrite | cCmode | cFlush => exact allNext_whenWritten s.onlyC_answer (allNext_done (s.onlyC_setC _ _))
  | cPop => exact allNext_whenWritten s.onlyC_answer (allNext_popQueue s.onlyC_answer fun _ => s.onlyC_setC _)
  | cReset => exact allNext_done rfl
  | _ => cases hi

theorem exec_onlyD (hi : unitOf i = .d) : AllNext s.OnlyD (exec i s) := by
  cases i with
  | dWrite | tData | ecm | eid | tReset | tBadcmd | cwEtm | cwFlush | cwStepup | cwData =>
    exact allNext_dInput s.onlyD_answer fun _ => s.onlyD_setD _
  | dPop => exact allNext_whenWritten s.onlyD_answer (allNext_popQueue s.onlyD_answer fun _ => s.onlyD_setD _)
  | dReset => exact allNext_done rfl
  | _ => cases hi

/-- R126, R144: what an operation of L but its RESET does. -/
theorem exec_lKeeps (hi : unitOf i = .l) (hreset : i ≠ .lReset) : AllNext s.LKeeps (exec i s) := by
  have hr : ∀ r, s.LKeeps (s.answer r) := State.lKeeps_answer
  have hdone : ∀ {t r}, s.LKeeps t → AllNext s.LKeeps (done t r) := fun h =>
    allNext_done (h.trans (State.lKeeps_answer _))
  cases i with
  | lReset => exact absurd rfl hreset
  | lRxbit b now => exact allNext_lPump hr (hdone (s.lRxBit_keeps b now))
  | lTxbit now => exact allNext_lPump hr (hdone (s.lTxBit_keeps now))
  | v14Char | odp | adp | flag | abort | frame => exact allNext_lPump hr (hdone (s.lRxBits_keeps _ _))
  | iFrame | rr | rnr | rej | srej | sOther | sabme | disc | ua | xid | uOther | xidFi | xidGroupPublic
  | xidGroupPrivate | xidGroupUserdata | xidParamTxsize | xidParamWindow | xidParamCompreq =>
    exact allNext_lPump hr (hdone (s.lFrame_keeps _ _))
  | _ => cases hi

end Frames

/-- Settles O54: the frames of the four units that drive no other, and L's relation with compression off. -/
theorem unitsAreIsolated : Obligations.UnitsAreIsolated := by
  intro i s t ht
  refine ⟨fun hi => exec_onlyV hi t ht, fun hi => exec_onlyH hi t ht, fun hi => exec_onlyC hi t ht,
    fun hi => exec_onlyD hi t ht, fun hi hoff hreset => ?_⟩
  have hk := exec_lKeeps hi hreset t ht
  exact ⟨hk.c_eq hoff, hk.d_eq hoff, hk.written⟩

/-! ### The legal values of V, H and L -/

section LineUnits

variable {i : Instr} {s : State}

theorem exec_v_inv (hi : unitOf i = .v) (hv : s.v.inv) : AllNext (·.v.inv) (exec i s) := by
  have hr : ∀ r, (s.answer r).v.inv := fun _ => hv
  cases i with
  | v14Setsb n =>
    refine allNext_whenWritten hr ?_
    split
    · exact allNext_done hv
    · obtain ⟨hcnt, hrec, -, hrx, htx, hgap⟩ := hv
      exact allNext_done ⟨hcnt, hrec, Nat.one_le_iff_ne_zero.mpr ‹_›, hrx, htx, hgap⟩
  | v14Tx b => exact allNext_whenWritten hr (allNext_done (V14.tx_inv hv b))
  | v14Flush => exact allNext_whenWritten hr (allNext_done (V14.flush_inv hv))
  | v14Rx b => exact allNext_whenWritten hr (allNext_done (V14.rxBits_inv hv _))
  | v14Rsb => exact allNext_whenWritten hr (allNext_done hv)
  | v14Rxbit b => exact allNext_whenWritten hr (allNext_done (V14.rxBit_inv hv b))
  | v14Pop => exact allNext_whenWritten hr (allNext_popQueue hr fun _ _ => hv)
  | v14Reset => exact allNext_done V14.atReset_inv
  | _ => cases hi

theorem exec_h_inv (hi : unitOf i = .h) (hh : s.h.inv) : AllNext (·.h.inv) (exec i s) := by
  have hr : ∀ r, (s.answer r).h.inv := fun _ => hh
  cases i with
  | hCrc16 => exact allNext_whenWritten hr (allNext_done hh)
  | hSendframe f => exact allNext_whenWritten hr (allNext_done (Hdlc.sendFrame_inv hh f))
  | hSendflag => exact allNext_whenWritten hr (allNext_done (Hdlc.sendFlag_inv hh))
  | hRxbit b =>
    have hrx := Hdlc.rxBit_inv hh b
    refine allNext_whenWritten hr ?_
    generalize s.h.rxBit b = r at hrx ⊢
    obtain ⟨h', ret⟩ := r
    cases ret with
    | none | frame | abort => exact allNext_done hrx
  | hPop => exact allNext_whenWritten hr (allNext_popQueue hr fun _ _ => hh)
  | hReset => exact allNext_done Hdlc.atReset_inv
  | _ => cases hi

/-- An operation keeps the legal values of the line units: V's and H's by their own procedures, L's by its relation, and C's
and D's by their frame. -/
theorem exec_lineInv (i : Instr) (hs : s.lineInv) : AllNext State.lineInv (exec i s) := by
  intro t ht
  obtain ⟨hv, hh, hl⟩ := id hs
  cases hi : unitOf i with
  | v =>
    have hv' := exec_v_inv hi hv t ht
    rw [exec_onlyV hi t ht]
    exact ⟨hv', hh, hl⟩
  | h =>
    have hh' := exec_h_inv hi hh t ht
    rw [exec_onlyH hi t ht]
    exact ⟨hv, hh', hl⟩
  | c =>
    rw [exec_onlyC hi t ht]
    exact hs
  | d =>
    rw [exec_onlyD hi t ht]
    exact hs
  | l =>
    by_cases hreset : i = .lReset
    · subst hreset
      rw [done_next_iff.mp ht]
      exact ⟨V14.atReset_inv, Hdlc.atReset_inv, Lapm.atReset_inv _⟩
    · exact (exec_lKeeps hi hreset t ht).line hs

end LineUnits

/-! ### One step -/

/-- What a step can do: nothing, octets for the source, a refusal of what does not decode, or one instruction (R3, R37,
R51). -/
theorem step_cases {s t : State} (h : step s = .next t) :
    t = s ∨ (∃ rest octets, t = (s.setInput rest).setSource octets) ∨ (∃ rest r, t = (s.setInput rest).answer r)
    ∨ ∃ rest i, exec i (s.setInput rest) = .next t := by
  cases hin : s.input with
  | nil =>
    rw [step_of_input_nil hin] at h
    cases h
    exact .inl rfl
  | cons x rest =>
    by_cases hx : ∃ octets, x = .supply octets
    · obtain ⟨octets, rfl⟩ := hx
      rw [step_supply hin] at h
      cases h
      exact .inr (.inl ⟨_, _, rfl⟩)
    · cases hd : decode s.cfg x with
      | ok i => exact .inr (.inr (.inr ⟨rest, i, step_of_decode_ok hin hd ▸ h⟩))
      | error e =>
        rw [step_of_decode_error hin hd fun o ho => hx ⟨o, ho⟩, refuse_next_iff] at h
        exact .inr (.inr (.inl ⟨rest, _, h⟩))

/-- Settles O58: `exec_lineInv` for the instruction of a step; what else a step does is outside the units. -/
theorem lineUnitsInvKept : Obligations.LineUnitsInvKept := by
  intro s t hv hh hl ht
  rcases step_cases ht with rfl | ⟨rest, octets, rfl⟩ | ⟨rest, r, rfl⟩ | ⟨rest, i, hi⟩
  · exact ⟨hv, hh, hl⟩
  · exact ⟨hv, hh, hl⟩
  · exact ⟨hv, hh, hl⟩
  · exact exec_lineInv (s := s.setInput rest) i ⟨hv, hh, hl⟩ t hi

end Sys2Proof.Machine
end

section
/-!
SUPPORT. The dictionary's invariants (10_state.md R22): what is said of the arena alone, and that `addChild` (R174), `detach`
and `recoverNode` (R175) and `acceptChar` (R176) keep it.
-/

namespace Sys2Proof.Machine

/-! ### Allowed parameters -/

/-- R4: the arena's size is a power of two, above the roots and the longest string. -/
theorem Params.wf_arena {p : Params} (hp : p.wf = true) :
    1 ≤ p.maxStringLength ∧ 512 ≤ p.maxCodeWords ∧ ∃ k, p.maxCodeWords = 2 ^ k := by
  simp only [Params.wf, Bool.and_eq_true, decide_eq_true_eq, List.contains_eq_mem, List.mem_cons, List.not_mem_nil,
    or_false, and_assoc] at hp
  obtain ⟨hsize, hlen, -⟩ := hp
  refine ⟨hlen, by omega, ?_⟩
  rcases hsize with h | h | h | h | h | h | h | h
  · exact ⟨9, h⟩
  · exact ⟨10, h⟩
  · exact ⟨11, h⟩
  · exact ⟨12, h⟩
  · exact ⟨13, h⟩
  · exact ⟨14, h⟩
  · exact ⟨15, h⟩
  · exact ⟨16, h⟩

/-! ### Reading nodes -/

section Nodes

variable {p : Params} {x y : V42Base}

theorem V42Base.isFree_iff {i : Nat} : x.isFree i = true ↔ (x.nodeAt i).parent = .free := by simp [V42Base.isFree]

theorem V42Base.isLeaf_iff {i : Nat} : x.isLeaf i = true ↔ (x.nodeAt i).children = [] := by simp [V42Base.isLeaf]

theorem V42Base.inUse_iff {i : Nat} :
    x.inUse i = true ↔ Config.cwReserved ≤ i ∧ (x.nodeAt i).parent ≠ .free := by
  simp [V42Base.inUse, V42Base.isFree]

/-- A leaf has no child for any byte. -/
theorem V42Base.lookup_of_isLeaf {i k : Nat} (h : x.isLeaf i = true) : Cells.lookup (x.nodeAt i).children k = none := by
  rw [V42Base.isLeaf_iff.mp h]
  rfl

theorem V42Base.nodeAt_congr (h : y.node = x.node) (i : Nat) : y.nodeAt i = x.nodeAt i := by
  rw [V42Base.nodeAt, h]
  rfl

/-! ### Chains -/

/-- A chain's length does not depend on the turns allowed, if they are enough. -/
theorem V42Base.chainLen_of_le {f k i n : Nat} (h : x.chainLen f i = some n) (hk : n ≤ k) :
    x.chainLen k i = some n := by
  induction f generalizing k i n with
  | zero => cases h
  | succ f ih =>
    unfold V42Base.chainLen at h
    split at h
    · rename_i hroot
      cases h
      obtain ⟨k, rfl⟩ := Nat.exists_eq_add_of_le' hk
      rw [V42Base.chainLen, hroot]
    · rename_i q hq
      obtain ⟨m, hm, rfl⟩ := Option.map_eq_some_iff.mp h
      obtain ⟨k, rfl⟩ := Nat.exists_eq_add_of_le' ((Nat.le_add_left 1 m).trans hk)
      rw [V42Base.chainLen, hq]
      simp [ih hm (by omega : m ≤ k)]
    · cases h

theorem V42Base.chainLen_le {f i n : Nat} (h : x.chainLen f i = some n) : n ≤ f := by
  induction f generalizing i n with
  | zero => cases h
  | succ f ih =>
    unfold V42Base.chainLen at h
    split at h
    · cases h
      omega
    · obtain ⟨m, hm, rfl⟩ := Option.map_eq_some_iff.mp h
      exact Nat.succ_le_succ (ih hm)
    · cases h

theorem V42Base.chainLen_root {f i : Nat} (hf : 1 ≤ f) (h : (x.nodeAt i).parent = .root) : x.chainLen f i = some 1 := by
  obtain ⟨f, rfl⟩ := Nat.exists_eq_add_of_le' hf
  rw [V42Base.chainLen, h]

/-- The chain of a node is its parent's chain and one more. -/
theorem V42Base.chainLen_child {f k i q n : Nat} (hpar : (x.nodeAt i).parent = .node q) (hq : x.chainLen f q = some n)
    (hk : n + 1 ≤ k) : x.chainLen k i = some (n + 1) := by
  obtain ⟨k, rfl⟩ := Nat.exists_eq_add_of_le' ((Nat.le_add_left 1 n).trans hk)
  rw [V42Base.chainLen, hpar]
  simp [V42Base.chainLen_of_le hq (by omega : n ≤ k)]

/-- A chain that stays within the nodes of `S`, whose parents are the same in both, is the same. -/
theorem V42Base.chainLen_congr (S : Nat → Prop)
    (h : ∀ j, S j → (y.nodeAt j).parent = (x.nodeAt j).parent ∧ ∀ q, (x.nodeAt j).parent = .node q → S q)
    (f : Nat) {i : Nat} (hi : S i) : y.chainLen f i = x.chainLen f i := by
  induction f generalizing i with
  | zero => rfl
  | succ f ih =>
    obtain ⟨hpar, hstay⟩ := h i hi
    rw [V42Base.chainLen, V42Base.chainLen, hpar]
    cases hp : (x.nodeAt i).parent with
    | root | free => rfl
    | node q =>
      dsimp only
      rw [ih (hstay q hp)]

/-! These readings are of the nodes only. -/

theorem V42Base.isFree_congr (h : y.node = x.node) (i : Nat) : y.isFree i = x.isFree i := by
  simp only [V42Base.isFree, V42Base.nodeAt_congr h]

theorem V42Base.isLeaf_congr (h : y.node = x.node) (i : Nat) : y.isLeaf i = x.isLeaf i := by
  simp only [V42Base.isLeaf, V42Base.nodeAt_congr h]

theorem V42Base.inUse_congr (h : y.node = x.node) (i : Nat) : y.inUse i = x.inUse i := by
  simp only [V42Base.inUse, V42Base.isFree_congr h]

theorem V42Base.chainLen_congr_node (h : y.node = x.node) (f i : Nat) : y.chainLen f i = x.chainLen f i :=
  V42Base.chainLen_congr (fun _ => True) (fun j _ => ⟨by rw [V42Base.nodeAt_congr h], fun _ _ => trivial⟩) f trivial

/-! ### The arena -/

/-- What R22 says of the nodes alone, with their canonical form (log 15). -/
structure V42Base.Arena (p : Params) (x : V42Base) : Prop where
  nodes : x.nodesWf = true
  root  : x.rootInv p
  tree  : x.treeInv p

/-- The arena's invariants read the nodes only. -/
theorem V42Base.Arena.congr (h : x.Arena p) (hn : y.node = x.node) : y.Arena p := by
  obtain ⟨hwf, hroot, htree⟩ := h
  refine ⟨by rw [V42Base.nodesWf, hn]; exact hwf, ?_, ?_⟩
  · simpa only [V42Base.rootInv, V42Base.nodeAt_congr hn, V42Base.isFree_congr hn] using hroot
  · simpa only [V42Base.treeInv, V42Base.nodeAt_congr hn, V42Base.isFree_congr hn, V42Base.isLeaf_congr hn,
      V42Base.inUse_congr hn, V42Base.chainLen_congr_node hn] using htree

theorem V42Base.Arena.isFree_isLeaf (h : x.Arena p) {i : Nat} (hi : x.isFree i = true) : x.isLeaf i = true :=
  let ⟨hleaf, _⟩ := h.tree
  hleaf i hi

/-- `children` and `parent` say the same (R22 (c)). -/
theorem V42Base.Arena.lookup_iff (h : x.Arena p) (q k i : Nat) :
    Cells.lookup (x.nodeAt q).children k = some i ↔
      (Config.cwFirst ≤ i ∧ (x.nodeAt i).parent = .node q ∧ (x.nodeAt i).character.toNat = k) :=
  let ⟨_, hlook, _⟩ := h.tree
  hlook q k i

theorem V42Base.Arena.parent_ne_root (h : x.Arena p) {i : Nat} (hi : Config.cwFirst ≤ i) :
    (x.nodeAt i).parent ≠ .root :=
  let ⟨_, _, hdyn, _⟩ := h.tree
  hdyn i hi

/-- Every in-use node has a chain to a root, short enough (R22 (e)). -/
theorem V42Base.Arena.exists_chain (h : x.Arena p) {i : Nat} (hi : x.inUse i = true) :
    ∃ n, x.chainLen p.maxStringLength i = some n :=
  let ⟨_, _, _, hchain⟩ := h.tree
  Option.isSome_iff_exists.mp (hchain i hi)

/-- The nodes from 3 to 258 are the roots (R171). -/
theorem V42Base.Arena.parent_root (h : x.Arena p) {i : Nat} (h3 : Config.cwReserved ≤ i) (hi : i < Config.cwFirst) :
    (x.nodeAt i).parent = .root := by
  simp only [Config.cwReserved, Config.cwFirst] at h3 hi
  have hr := (h.root.1 (BitVec.ofNat 8 (i - 3))).1
  have he : Config.cwReserved + (BitVec.ofNat 8 (i - 3)).toNat = i := by
    simp only [Config.cwReserved, BitVec.toNat_ofNat]
    omega
  rwa [he] at hr

theorem V42Base.Arena.lt_of_parent_ne_free (h : x.Arena p) {i : Nat} (hi : (x.nodeAt i).parent ≠ .free) :
    Config.cwReserved ≤ i ∧ i < p.maxCodeWords := by
  by_contra hc
  exact hi (V42Base.isFree_iff.mp (h.root.2 i (by omega)))

theorem V42Base.Arena.inUse_of_parent_ne_free (h : x.Arena p) {i : Nat} (hi : (x.nodeAt i).parent ≠ .free) :
    x.inUse i = true := V42Base.inUse_iff.mpr ⟨(h.lt_of_parent_ne_free hi).1, hi⟩

/-- An in-use node lies in the arena. -/
theorem V42Base.Arena.lt_of_inUse (h : x.Arena p) {i : Nat} (hi : x.inUse i = true) : i < p.maxCodeWords :=
  (h.lt_of_parent_ne_free (V42Base.inUse_iff.mp hi).2).2

/-- A node with a parent is a dynamic one. -/
theorem V42Base.Arena.dynamic_of_parent (h : x.Arena p) {i q : Nat} (hi : (x.nodeAt i).parent = .node q) :
    Config.cwFirst ≤ i := by
  have h3 := (h.lt_of_parent_ne_free (i := i) (by rw [hi]; nofun)).1
  by_contra hc
  rw [h.parent_root h3 (Nat.lt_of_not_le hc)] at hi
  cases hi

/-- A leaf is no node's parent. -/
theorem V42Base.Arena.parent_ne_of_isLeaf (h : x.Arena p) {n : Nat} (hn : x.isLeaf n = true) (j : Nat) :
    (x.nodeAt j).parent ≠ .node n := fun hj => by
  have hl := (h.lookup_iff n _ j).mpr ⟨h.dynamic_of_parent hj, hj, rfl⟩
  rw [V42Base.lookup_of_isLeaf hn] at hl
  cases hl

/-- Two dictionaries that agree on all parents but a leaf's agree on the chains of all other nodes. -/
theorem V42Base.Arena.chainLen_of_parent_eq (h : x.Arena p) {n : Nat} (hn : x.isLeaf n = true)
    (hpar : ∀ j, j ≠ n → (y.nodeAt j).parent = (x.nodeAt j).parent) (f : Nat) {i : Nat} (hi : i ≠ n) :
    y.chainLen f i = x.chainLen f i :=
  V42Base.chainLen_congr (· ≠ n)
    (fun j hj => ⟨hpar j hj, fun _ hq he => h.parent_ne_of_isLeaf hn j (he ▸ hq)⟩) f hi

/-- The arena after DictReset (R173). -/
theorem V42Base.atReset_arena (hp : p.wf = true) : V42Base.atReset.Arena p := by
  obtain ⟨hlen, hsize, -⟩ := Params.wf_arena hp
  have hroot : ∀ i, Config.cwReserved ≤ i → i < Config.cwFirst → V42Base.atReset.nodeAt i =
      { character := BitVec.ofNat 8 (i - Config.cwReserved), parent := .root, children := [] } := fun i h3 hi =>
    if_pos ⟨h3, hi⟩
  have hfree : ∀ i, ¬ (Config.cwReserved ≤ i ∧ i < Config.cwFirst) → V42Base.atReset.nodeAt i =
      { character := 0, parent := .free, children := [] } := fun i hi => if_neg hi
  have hnode : ∀ i, (V42Base.atReset.nodeAt i).children = [] ∧ ∀ q, (V42Base.atReset.nodeAt i).parent ≠ .node q := by
    intro i
    by_cases hi : Config.cwReserved ≤ i ∧ i < Config.cwFirst
    · rw [hroot i hi.1 hi.2]
      exact ⟨rfl, nofun⟩
    · rw [hfree i hi]
      exact ⟨rfl, nofun⟩
  refine ⟨V42Base.atReset_nodesWf, ⟨fun b => ?_, fun i hi => ?_⟩,
    ⟨fun i _ => ?_, fun q k i => ?_, fun i hi => ?_, fun i hi => ?_⟩⟩
  · rw [hroot _ (Nat.le_add_right _ _) (by simp only [Config.cwReserved, Config.cwFirst]; have := b.isLt; omega)]
    simp
  · rw [V42Base.isFree_iff, hfree i (by simp only [Config.cwReserved, Config.cwFirst] at hi ⊢; omega)]
  · rw [V42Base.isLeaf_iff, (hnode i).1]
  · rw [(hnode q).1]
    exact ⟨nofun, fun ⟨_, hpar, _⟩ => absurd hpar ((hnode i).2 q)⟩
  · rw [hfree i (by omega)]
    nofun
  · obtain ⟨h3, hpar⟩ := V42Base.inUse_iff.mp hi
    have hlt : i < Config.cwFirst := by
      by_contra hc
      exact hpar (by rw [hfree i (by omega)])
    rw [V42Base.chainLen_root hlen (by rw [hroot i h3 hlt])]
    rfl

end Nodes

end Sys2Proof.Machine
end

section
/-!
SUPPORT. The operations of the dictionary keep its invariants (43_v42bis_dictionary.md R174 to R176).
-/

namespace Sys2Proof.Machine

variable {p : Params} {x y : V42Base}

/-! ### `addChild` and `detach`, node by node -/

/-- R174: what `addChild` leaves at each node. -/
theorem V42Base.nodeAt_addChild (h : x.nodesWf = true) {i n : Nat} (hin : i ≠ n) (c : Octet) (k : Nat) :
    (x.addChild i c n).nodeAt k =
      if k = i then { x.nodeAt i with children := Cells.insert (x.nodeAt i).children c.toNat n }
      else if k = n then { x.nodeAt n with character := c, parent := .node i }
      else x.nodeAt k := by
  have h1 := V42Base.setNode_nodesWf n { x.nodeAt n with character := c, parent := .node i } h
    (V42Base.children_sorted h n)
  unfold V42Base.addChild
  dsimp only
  rw [V42Base.nodeAt_setNode _ _ _ h1, V42Base.nodeAt_setNode _ _ _ h, V42Base.nodeAt_setNode _ _ _ h,
    if_neg (Ne.symm hin)]
  simp only [eq_comm]

section AddChildFields

variable {i n : Nat}

theorem V42Base.parent_addChild (h : x.nodesWf = true) (hin : i ≠ n) (c : Octet) (k : Nat) :
    ((x.addChild i c n).nodeAt k).parent = if k = n then .node i else (x.nodeAt k).parent := by
  rw [V42Base.nodeAt_addChild h hin]
  by_cases hk : k = i
  · rw [if_pos hk, if_neg (hk ▸ hin), hk]
  · rw [if_neg hk]
    split_ifs <;> rfl

theorem V42Base.character_addChild (h : x.nodesWf = true) (hin : i ≠ n) (c : Octet) (k : Nat) :
    ((x.addChild i c n).nodeAt k).character = if k = n then c else (x.nodeAt k).character := by
  rw [V42Base.nodeAt_addChild h hin]
  by_cases hk : k = i
  · rw [if_pos hk, if_neg (hk ▸ hin), hk]
  · rw [if_neg hk]
    split_ifs <;> rfl

theorem V42Base.children_addChild (h : x.nodesWf = true) (hin : i ≠ n) (c : Octet) (k : Nat) :
    ((x.addChild i c n).nodeAt k).children =
      if k = i then Cells.insert (x.nodeAt i).children c.toNat n else (x.nodeAt k).children := by
  rw [V42Base.nodeAt_addChild h hin]
  split_ifs with hi hn
  · rfl
  · rw [hn]
  · rfl

end AddChildFields

/-- R175: what `detach` of a dynamic node in use leaves at each node. -/
theorem V42Base.nodeAt_detach (h : x.nodesWf = true) {n q : Nat} (hn : (x.nodeAt n).parent = .node q) (hqn : q ≠ n)
    (k : Nat) :
    (x.detach n).nodeAt k =
      if k = n then { x.nodeAt n with parent := .free }
      else if k = q then
        { x.nodeAt q with children := Cells.erase (x.nodeAt q).children (x.nodeAt n).character.toNat }
      else x.nodeAt k := by
  have h1 := V42Base.setNode_nodesWf q
    { x.nodeAt q with children := Cells.erase (x.nodeAt q).children (x.nodeAt n).character.toNat } h
    (Cells.sorted_erase _ (V42Base.children_sorted h q))
  rw [V42Base.detach, hn]
  dsimp only
  rw [V42Base.nodeAt_setNode _ _ _ h1, V42Base.nodeAt_setNode _ _ _ h, V42Base.nodeAt_setNode _ _ _ h, if_neg hqn]
  simp only [eq_comm]

section DetachFields

variable {n q : Nat}

theorem V42Base.parent_detach (h : x.nodesWf = true) (hn : (x.nodeAt n).parent = .node q) (hqn : q ≠ n) (k : Nat) :
    ((x.detach n).nodeAt k).parent = if k = n then .free else (x.nodeAt k).parent := by
  rw [V42Base.nodeAt_detach h hn hqn]
  split_ifs with hkn hkq
  · rfl
  · rw [hkq]
  · rfl

theorem V42Base.character_detach (h : x.nodesWf = true) (hn : (x.nodeAt n).parent = .node q) (hqn : q ≠ n) (k : Nat) :
    ((x.detach n).nodeAt k).character = (x.nodeAt k).character := by
  rw [V42Base.nodeAt_detach h hn hqn]
  split_ifs with hkn hkq
  · rw [hkn]
  · rw [hkq]
  · rfl

theorem V42Base.children_detach (h : x.nodesWf = true) (hn : (x.nodeAt n).parent = .node q) (hqn : q ≠ n) (k : Nat) :
    ((x.detach n).nodeAt k).children =
      if k = q then Cells.erase (x.nodeAt q).children (x.nodeAt n).character.toNat else (x.nodeAt k).children := by
  rw [V42Base.nodeAt_detach h hn hqn]
  by_cases hk : k = n
  · rw [if_pos hk, if_neg (hk ▸ Ne.symm hqn), hk]
  · rw [if_neg hk]
    split_ifs <;> rfl

end DetachFields

/-- A change of one leaf of the arena, its parent and its character, with the parent's children in step, keeps the arena if
the leaf is then free or has a short enough chain: the roots and the chains of all other nodes are as before. -/
theorem V42Base.Arena.of_leaf_changed {n : Nat} (h : x.Arena p) (hn : x.isLeaf n = true) (hlo : Config.cwFirst ≤ n)
    (hhi : n < p.maxCodeWords) (hwf : y.nodesWf = true)
    (hpar : ∀ j, j ≠ n → (y.nodeAt j).parent = (x.nodeAt j).parent)
    (hchar : ∀ j, j ≠ n → (y.nodeAt j).character = (x.nodeAt j).character)
    (hfree : ∀ j, y.isFree j = true → y.isLeaf j = true)
    (hlook : ∀ q k j, Cells.lookup (y.nodeAt q).children k = some j ↔
      (Config.cwFirst ≤ j ∧ (y.nodeAt j).parent = .node q ∧ (y.nodeAt j).character.toNat = k))
    (hroot : (y.nodeAt n).parent ≠ .root)
    (hchain : y.inUse n = true → (y.chainLen p.maxStringLength n).isSome) : y.Arena p := by
  refine ⟨hwf, ⟨fun b => ?_, fun j hj => ?_⟩, hfree, hlook, fun j hj => ?_, fun j hj => ?_⟩
  · have hb : Config.cwReserved + b.toNat ≠ n := by
      have := b.isLt
      simp only [Config.cwReserved, Config.cwFirst] at hlo ⊢
      omega
    rw [hpar _ hb, hchar _ hb]
    exact h.root.1 b
  · have hjn : j ≠ n := by simp only [Config.cwReserved, Config.cwFirst] at hlo hj; omega
    rw [V42Base.isFree_iff, hpar j hjn, ← V42Base.isFree_iff]
    exact h.root.2 j hj
  · by_cases hjn : j = n
    · rwa [hjn]
    · rw [hpar j hjn]
      exact h.parent_ne_root hj
  · by_cases hjn : j = n
    · subst hjn
      exact hchain hj
    · obtain ⟨-, hjpar⟩ := V42Base.inUse_iff.mp hj
      rw [hpar j hjn] at hjpar
      obtain ⟨l, hl⟩ := h.exists_chain (h.inUse_of_parent_ne_free hjpar)
      rw [h.chainLen_of_parent_eq hn hpar _ hjn, hl]
      rfl

/-! ### `addChild` (R174) -/

section AddChild

variable {i n m : Nat} {c : Octet}

/-- R174: the children after `addChild` are the old ones and the new one. -/
theorem V42Base.Arena.lookup_addChild (h : x.Arena p) (hin : i ≠ n) (hc : x.childAt i c = none) (q k j : Nat) :
    Cells.lookup ((x.addChild i c n).nodeAt q).children k = some j ↔
      (q = i ∧ c.toNat = k ∧ j = n) ∨ Cells.lookup (x.nodeAt q).children k = some j := by
  rw [V42Base.children_addChild h.nodes hin]
  by_cases hq : q = i
  · subst hq
    have hc' : Cells.lookup (x.nodeAt q).children c.toNat = none := hc
    rw [if_pos rfl, Cells.lookup_insert]
    split_ifs with hk
    · simp [← hk, hc', eq_comm]
    · simp [hk]
  · simp [hq]

/-- R174: a free slot of the arena enters as a leaf under a node in use, for a byte it has no child for and where the chain
leaves room. -/
theorem V42Base.Arena.addChild (h : x.Arena p) (hi : x.inUse i = true) (hn : x.isFree n = true)
    (hlo : Config.cwFirst ≤ n) (hhi : n < p.maxCodeWords) (hc : x.childAt i c = none)
    (hchain : x.chainLen p.maxStringLength i = some m) (hm : m + 1 ≤ p.maxStringLength) :
    (x.addChild i c n).Arena p ∧ (x.addChild i c n).isLeaf n = true := by
  have hnleaf := h.isFree_isLeaf hn
  have hnpar := V42Base.isFree_iff.mp hn
  have hipar := (V42Base.inUse_iff.mp hi).2
  have hin : i ≠ n := fun he => hipar (he ▸ hnpar)
  have hpar := V42Base.parent_addChild h.nodes hin c
  have hchar := V42Base.character_addChild h.nodes hin c
  have hkids := V42Base.children_addChild h.nodes hin c
  have hlook := h.lookup_addChild (n := n) hin hc
  have hwf := V42Base.addChild_nodesWf i c n h.nodes
  generalize x.addChild i c n = y at hpar hchar hkids hlook hwf ⊢
  have hleaf : ∀ j, j ≠ i → x.isLeaf j = true → y.isLeaf j = true := fun j hj hl => by
    rwa [V42Base.isLeaf_iff, hkids, if_neg hj, ← V42Base.isLeaf_iff]
  have hpar' : ∀ j, j ≠ n → (y.nodeAt j).parent = (x.nodeAt j).parent := fun j hj => by rw [hpar, if_neg hj]
  refine ⟨h.of_leaf_changed hnleaf hlo hhi hwf hpar' (fun j hj => by rw [hchar, if_neg hj]) (fun j hj => ?_)
    (fun q k j => ?_) (by rw [hpar, if_pos rfl]; nofun) fun _ => ?_, hleaf n (Ne.symm hin) hnleaf⟩
  · by_cases hjn : j = n
    · exact hjn ▸ hleaf n (Ne.symm hin) hnleaf
    · rw [V42Base.isFree_iff, hpar' j hjn] at hj
      exact hleaf j (fun he => hipar (he ▸ hj)) (h.isFree_isLeaf (V42Base.isFree_iff.mpr hj))
  · rw [hlook, h.lookup_iff, hpar, hchar]
    by_cases hjn : j = n
    · subst hjn
      simp [hnpar, hlo, eq_comm]
    · simp [hjn]
  · have hchain' : y.chainLen p.maxStringLength i = some m := by
      rw [h.chainLen_of_parent_eq hnleaf hpar' _ hin, hchain]
    rw [V42Base.chainLen_child (by rw [hpar, if_pos rfl]) hchain' hm]
    rfl

end AddChild

/-! ### `recoverNode` (R175) -/

/-- R175: the children after `detach` are the old ones without the detached. -/
theorem V42Base.Arena.lookup_detach {n q : Nat} (h : x.Arena p) (hn : (x.nodeAt n).parent = .node q) (hqn : q ≠ n)
    (r k j : Nat) :
    Cells.lookup ((x.detach n).nodeAt r).children k = some j ↔
      Cells.lookup (x.nodeAt r).children k = some j ∧ j ≠ n := by
  have hother : ∀ r k, ¬ (r = q ∧ (x.nodeAt n).character.toNat = k) → Cells.lookup (x.nodeAt r).children k ≠ some n :=
    fun r k hne hl => by
      obtain ⟨-, hr, hk⟩ := (h.lookup_iff r k n).mp hl
      rw [hn] at hr
      cases hr
      exact hne ⟨rfl, hk⟩
  rw [V42Base.children_detach h.nodes hn hqn]
  by_cases hrq : r = q
  · subst hrq
    rw [if_pos rfl, Cells.lookup_erase _ _ (V42Base.children_sorted h.nodes r)]
    split_ifs with hk
    · have hlook : Cells.lookup (x.nodeAt r).children k = some n :=
        (h.lookup_iff r k n).mpr ⟨h.dynamic_of_parent hn, hn, hk⟩
      simp [hlook, eq_comm]
    · exact ⟨fun hl => ⟨hl, fun he => hother r k (fun hc => hk hc.2) (he ▸ hl)⟩, And.left⟩
  · rw [if_neg hrq]
    exact ⟨fun hl => ⟨hl, fun he => hother r k (fun hc => hrq hc.1) (he ▸ hl)⟩, And.left⟩

/-- R175: a dynamic leaf becomes a free node, and its parent loses it. -/
theorem V42Base.Arena.detach {n : Nat} (h : x.Arena p) (hn : x.isLeaf n = true) (hlo : Config.cwFirst ≤ n) :
    (x.detach n).Arena p ∧ (x.detach n).isFree n = true := by
  cases hnpar : (x.nodeAt n).parent with
  | free =>
    rw [V42Base.detach, hnpar]
    exact ⟨h, V42Base.isFree_iff.mpr hnpar⟩
  | root => exact absurd hnpar (h.parent_ne_root hlo)
  | node q =>
    have hqn : q ≠ n := fun he => h.parent_ne_of_isLeaf hn n (he ▸ hnpar)
    have hhi := (h.lt_of_parent_ne_free (i := n) (by rw [hnpar]; nofun)).2
    have hpar := V42Base.parent_detach h.nodes hnpar hqn
    have hchar := V42Base.character_detach h.nodes hnpar hqn
    have hkids := V42Base.children_detach h.nodes hnpar hqn
    have hlook := h.lookup_detach hnpar hqn
    have hwf := V42Base.detach_nodesWf n h.nodes
    generalize x.detach n = y at hpar hchar hkids hlook hwf ⊢
    have hfree : (y.nodeAt n).parent = .free := by rw [hpar, if_pos rfl]
    refine ⟨h.of_leaf_changed hn hlo hhi hwf (fun j hj => by rw [hpar, if_neg hj]) (fun j _ => hchar j) (fun j hj => ?_)
      (fun r k j => ?_) (by rw [hfree]; nofun) fun hu => absurd hfree (V42Base.inUse_iff.mp hu).2,
      V42Base.isFree_iff.mpr hfree⟩
    · have hjleaf : x.isLeaf j = true := by
        by_cases hjn : j = n
        · exact hjn ▸ hn
        · rw [V42Base.isFree_iff, hpar, if_neg hjn] at hj
          exact h.isFree_isLeaf (V42Base.isFree_iff.mpr hj)
      have hjq : j ≠ q := fun he => h.parent_ne_of_isLeaf hjleaf n (he ▸ hnpar)
      rwa [V42Base.isLeaf_iff, hkids, if_neg hjq, ← V42Base.isLeaf_iff]
    · rw [hlook, h.lookup_iff, hpar, hchar]
      by_cases hjn : j = n
      · simp [hjn]
      · simp [hjn]

/-- The turns of the scan from slot `n` to slot `m` of an arena of `size` slots (R175). -/
def turnsTo (size m n : Nat) : Nat := if n < m then m - n else (size - n) + (m - Config.cwFirst)

/-- R175: a scan with turns enough to come to a leaf stops at a leaf. -/
theorem V42Base.scan_spec {m : Nat} (hm : x.isLeaf m = true) (hmlo : Config.cwFirst ≤ m) (hmhi : m < p.maxCodeWords)
    (fuel : Nat) {n : Nat} (hnlo : Config.cwFirst ≤ n) (hnhi : n < p.maxCodeWords)
    (hf : turnsTo p.maxCodeWords m n ≤ fuel) :
    x.isLeaf (x.scan p fuel n) = true ∧ Config.cwFirst ≤ x.scan p fuel n ∧ x.scan p fuel n < p.maxCodeWords := by
  induction fuel generalizing n with
  | zero =>
    unfold turnsTo at hf
    split at hf <;> omega
  | succ f ih =>
    have hlo : Config.cwFirst ≤ nextSlot p n := by
      unfold nextSlot
      split <;> omega
    have hhi : nextSlot p n < p.maxCodeWords := by
      unfold nextSlot
      split <;> omega
    unfold V42Base.scan
    split_ifs with hleaf
    · exact ⟨hleaf, hlo, hhi⟩
    · refine ih hlo hhi ?_
      have hne : nextSlot p n ≠ m := fun he => hleaf (he ▸ hm)
      unfold turnsTo nextSlot at *
      split_ifs at * <;> omega

/-- R175: with a leaf in the arena `recoverNode` finds one, and leaves it as a free next slot. -/
theorem V42Base.Arena.recoverNode {m : Nat} (h : x.Arena p) (hm : x.isLeaf m = true) (hmlo : Config.cwFirst ≤ m)
    (hmhi : m < p.maxCodeWords) (hlo : Config.cwFirst ≤ x.nextCodeWord) (hhi : x.nextCodeWord < p.maxCodeWords) :
    (x.recoverNode p).Arena p ∧ Config.cwFirst ≤ (x.recoverNode p).nextCodeWord
    ∧ (x.recoverNode p).nextCodeWord < p.maxCodeWords
    ∧ (x.recoverNode p).isFree (x.recoverNode p).nextCodeWord = true := by
  obtain ⟨hleaf, hslo, hshi⟩ := V42Base.scan_spec hm hmlo hmhi p.maxCodeWords hlo hhi (by
    unfold turnsTo
    split <;> omega)
  obtain ⟨harena, hfree⟩ := h.detach hleaf hslo
  exact ⟨harena.congr rfl, hslo, hshi, hfree⟩

end Sys2Proof.Machine
end

section
/-!
SUPPORT. `acceptChar` (R176) keeps the dictionary invariants of R22, and changes nothing that C and D keep beside them; the
machine after reset meets every invariant (R261).
-/

namespace Sys2Proof.Machine

variable {p : Params} {x y : V42Base}

/-! ### What the operations leave unchanged -/

theorem V42Base.detach_eq (x : V42Base) (n : Nat) : x.detach n = { x with node := (x.detach n).node } := by
  unfold V42Base.detach
  split <;> rfl

/-- R175: `recoverNode` writes the nodes and the next slot only. -/
theorem V42Base.recoverNode_eq (p : Params) (x : V42Base) :
    x.recoverNode p = { x with node := (x.recoverNode p).node, nextCodeWord := (x.recoverNode p).nextCodeWord } := by
  unfold V42Base.recoverNode
  dsimp only
  rw [V42Base.detach_eq]

/-- R176, step 2: the dictionary, its next slot and `lastAdded` only. -/
theorem V42Base.endMatch_eq (p : Params) (x : V42Base) (i : Nat) (c : Octet) :
    x.endMatch p i c = { x with
      node := (x.endMatch p i c).node, nextCodeWord := (x.endMatch p i c).nextCodeWord
      lastAdded := (x.endMatch p i c).lastAdded } := by
  unfold V42Base.endMatch
  split
  · dsimp only
    rw [V42Base.recoverNode_eq]
    rfl
  · rfl

/-- R176: `acceptChar` leaves the widths, the escape code and the mode. -/
theorem V42Base.acceptChar_eq (p : Params) (x : V42Base) (c : Octet) :
    (x.acceptChar p c).1 = { (x.acceptChar p c).1 with
      codeWordSize := x.codeWordSize, codeWordThreshold := x.codeWordThreshold, escapeCode := x.escapeCode
      transparent := x.transparent } := by
  unfold V42Base.acceptChar
  split
  · rfl
  · split
    · rfl
    · dsimp only
      rw [V42Base.endMatch_eq]
      rfl

@[simp] theorem V42Base.acceptChar_codeWordSize (c : Octet) : (x.acceptChar p c).1.codeWordSize = x.codeWordSize := by
  rw [V42Base.acceptChar_eq]

@[simp] theorem V42Base.acceptChar_transparent (c : Octet) : (x.acceptChar p c).1.transparent = x.transparent := by
  rw [V42Base.acceptChar_eq]

/-- R176: a match that ends is the one there was. -/
theorem V42Base.acceptChar_code {c : Octet} {code len : Nat} (h : (x.acceptChar p c).2 = some (code, len)) :
    x.curCode = some code := by
  unfold V42Base.acceptChar at h
  split at h
  · cases h
  · split at h
    · cases h
    · rename_i i hi
      dsimp only at h
      split_ifs at h
      cases h
      exact hi

/-- R195, R222: the roll writes the escape code only. -/
theorem V42Base.rollEscape_eq (x : V42Base) (b : Octet) :
    x.rollEscape b = { x with escapeCode := (x.rollEscape b).escapeCode } := by
  unfold V42Base.rollEscape
  split <;> rfl

@[simp] theorem V42Base.rollEscape_codeWordSize (b : Octet) : (x.rollEscape b).codeWordSize = x.codeWordSize := by
  rw [V42Base.rollEscape_eq]

@[simp] theorem V42Base.rollEscape_transparent (b : Octet) : (x.rollEscape b).transparent = x.transparent := by
  rw [V42Base.rollEscape_eq]

/-! ### The invariants of R22, with the canonical form -/

/-- The dictionary invariants in a canonical dictionary (R22, log 15). -/
structure V42Base.Sound (p : Params) (x : V42Base) : Prop where
  nodes : x.nodesWf = true
  inv   : x.inv p

theorem V42Base.Sound.width (h : x.Sound p) : x.widthInv p := h.inv.1

theorem V42Base.Sound.arena (h : x.Sound p) : x.Arena p :=
  let ⟨hn, _, hr, ht, _⟩ := h
  ⟨hn, hr, ht⟩

theorem V42Base.Sound.matched (h : x.Sound p) : x.matchInv p :=
  let ⟨_, _, _, _, hm⟩ := h
  hm

theorem V42Base.Arena.sound (h : x.Arena p) (hw : x.widthInv p) (hm : x.matchInv p) : x.Sound p :=
  ⟨h.nodes, hw, h.root, h.tree, hm⟩

/-- R22 (g) without a match. -/
theorem V42Base.matchInv_iff_of_none (hc : x.curCode = none) :
    x.matchInv p ↔
      (Config.cwFirst ≤ x.nextCodeWord ∧ x.nextCodeWord < p.maxCodeWords ∧ x.isFree x.nextCodeWord = true)
      ∧ x.matchLen = 0 := by
  rw [V42Base.matchInv, hc]

/-- R22 (g) with a match. -/
theorem V42Base.matchInv_iff_of_some {i : Nat} (hc : x.curCode = some i) :
    x.matchInv p ↔
      (Config.cwFirst ≤ x.nextCodeWord ∧ x.nextCodeWord < p.maxCodeWords ∧ x.isFree x.nextCodeWord = true)
      ∧ x.inUse i = true ∧ x.chainLen p.maxStringLength i = some x.matchLen := by
  rw [V42Base.matchInv, hc]

/-- The matched node is in use, and `matchLen` is its chain's length (R22 (g)). -/
theorem V42Base.Sound.match_of_curCode (h : x.Sound p) {i : Nat} (hi : x.curCode = some i) :
    x.inUse i = true ∧ x.chainLen p.maxStringLength i = some x.matchLen :=
  ((V42Base.matchInv_iff_of_some hi).mp h.matched).2

/-- The matched node's code lies in the arena. -/
theorem V42Base.Sound.code_lt (h : x.Sound p) {i : Nat} (hi : x.curCode = some i) : i < p.maxCodeWords :=
  h.arena.lt_of_inUse (h.match_of_curCode hi).1

/-- R22 (f), (g) of another dictionary with these nodes, next slot and match. -/
theorem V42Base.matchInv_congr (hn : y.node = x.node) (hnext : y.nextCodeWord = x.nextCodeWord)
    (hcur : y.curCode = x.curCode) (hlen : y.matchLen = x.matchLen) (h : x.matchInv p) : y.matchInv p := by
  cases hc : x.curCode with
  | none =>
    rw [V42Base.matchInv_iff_of_none (hcur.trans hc), hnext, hlen, V42Base.isFree_congr hn]
    exact (V42Base.matchInv_iff_of_none hc).mp h
  | some i =>
    rw [V42Base.matchInv_iff_of_some (hcur.trans hc), hnext, hlen, V42Base.isFree_congr hn, V42Base.inUse_congr hn,
      V42Base.chainLen_congr_node hn]
    exact (V42Base.matchInv_iff_of_some hc).mp h

/-- R22 reads the nodes, the next slot, the match and the widths only. -/
theorem V42Base.Sound.congr (h : x.Sound p) (hn : y.node = x.node) (hnext : y.nextCodeWord = x.nextCodeWord)
    (hcur : y.curCode = x.curCode) (hlen : y.matchLen = x.matchLen) (hw : y.widthInv p) : y.Sound p :=
  (h.arena.congr hn).sound hw (V42Base.matchInv_congr hn hnext hcur hlen h.matched)

theorem V42Base.Sound.setMode (h : x.Sound p) (transparent transition : Bool) :
    ({ x with transparent := transparent, modeTransition := transition } : V42Base).Sound p :=
  h.congr rfl rfl rfl rfl h.width

theorem V42Base.Sound.rollEscape (h : x.Sound p) (b : Octet) : (x.rollEscape b).Sound p := by
  rw [V42Base.rollEscape_eq]
  exact h.congr rfl rfl rfl rfl h.width

/-- R193, R220: a width that still fits the dictionary. -/
theorem V42Base.Sound.setWidth (h : x.Sound p) {size thr : Nat} (hsize : 9 ≤ size) (hthr : thr = 2 ^ size)
    (hle : thr ≤ p.maxCodeWords) :
    ({ x with codeWordSize := size, codeWordThreshold := thr } : V42Base).Sound p :=
  h.congr rfl rfl rfl rfl ⟨hsize, hthr, hle⟩

/-- The dictionary after DictReset meets R22 (R173). -/
theorem V42Base.atReset_sound (hp : p.wf = true) : V42Base.atReset.Sound p := by
  obtain ⟨-, hsize, -⟩ := Params.wf_arena hp
  refine (V42Base.atReset_arena hp).sound ⟨le_rfl, rfl, hsize⟩ ⟨⟨le_rfl, ?_, rfl⟩, rfl⟩
  show 259 < p.maxCodeWords
  omega

/-! ### `acceptChar` (R176) -/

/-- The arena, the widths and the next slot of R22: all but the match, which `acceptChar` sets last (R176). -/
def V42Base.Unmatched (p : Params) (x : V42Base) : Prop :=
  x.Arena p ∧ x.widthInv p
  ∧ Config.cwFirst ≤ x.nextCodeWord ∧ x.nextCodeWord < p.maxCodeWords ∧ x.isFree x.nextCodeWord = true

theorem V42Base.Sound.unmatched (h : x.Sound p) : x.Unmatched p :=
  let ⟨⟨hlo, hhi, hfree⟩, _⟩ := h.matched
  ⟨h.arena, h.width, hlo, hhi, hfree⟩

/-- A match of a node in use with its chain's length completes R22. -/
theorem V42Base.Unmatched.sound (h : x.Unmatched p) {i n : Nat} (hi : x.inUse i = true)
    (hchain : x.chainLen p.maxStringLength i = some n) (hn : y.node = x.node) (hnext : y.nextCodeWord = x.nextCodeWord)
    (hw : y.widthInv p) (hcur : y.curCode = some i) (hlen : y.matchLen = n) : y.Sound p := by
  obtain ⟨ha, -, hslot⟩ := h
  refine (ha.congr hn).sound hw ?_
  rw [V42Base.matchInv_iff_of_some hcur, hnext, hlen, V42Base.isFree_congr hn, V42Base.inUse_congr hn,
    V42Base.chainLen_congr_node hn]
  exact ⟨hslot, hi, hchain⟩

/-- R176, step 1: the match grows by one node, within the longest string. -/
theorem V42Base.Sound.extend (h : x.Sound p) {c : Octet} {ch : Nat} (he : x.extension c = some ch) :
    ({ x with curCode := some ch, matchLen := x.matchLen + 1 } : V42Base).Sound p := by
  have ha := h.arena
  unfold V42Base.extension at he
  split at he
  · cases he
  · rename_i i hi
    split_ifs at he
    split at he
    · cases he
    · rename_i ch' hch
      split_ifs at he
      cases he
      obtain ⟨-, hpar, -⟩ := (ha.lookup_iff i _ ch).mp hch
      obtain ⟨-, hchain⟩ := h.match_of_curCode hi
      have huse := ha.inUse_of_parent_ne_free (i := ch) (by rw [hpar]; nofun)
      obtain ⟨n, hn⟩ := ha.exists_chain huse
      have hlen : n = x.matchLen + 1 := by
        have hk := V42Base.chainLen_child hpar hchain (Nat.le_max_right p.maxStringLength (x.matchLen + 1))
        rw [V42Base.chainLen_of_le hn ((V42Base.chainLen_le hn).trans (Nat.le_max_left _ _))] at hk
        exact Option.some.inj hk
      exact h.unmatched.sound huse (hlen ▸ hn) rfl rfl h.width rfl rfl

/-- R176, step 2: the new string is entered in the next slot, which leaves a leaf for `recoverNode` to find. -/
theorem V42Base.Sound.endMatch (h : x.Sound p) {i : Nat} (hi : x.curCode = some i) (c : Octet) :
    (x.endMatch p i c).Unmatched p := by
  obtain ⟨ha, hw, hlo, hhi, hfree⟩ := h.unmatched
  obtain ⟨huse, hchain⟩ := h.match_of_curCode hi
  unfold V42Base.endMatch
  split_ifs with hnew
  · obtain ⟨hc, hlen⟩ := hnew
    obtain ⟨hadd, hleaf⟩ := ha.addChild huse hfree hlo hhi hc hchain hlen
    have hadd' : ({ x.addChild i c x.nextCodeWord with lastAdded := some x.nextCodeWord } : V42Base).Arena p :=
      hadd.congr rfl
    dsimp only
    refine ⟨(hadd'.recoverNode hleaf hlo hhi hlo hhi).1, ?_, (hadd'.recoverNode hleaf hlo hhi hlo hhi).2⟩
    rw [V42Base.recoverNode_eq]
    exact hw
  · exact ⟨ha.congr rfl, hw, hlo, hhi, hfree⟩

/-- R176, step 3: the match restarts at a root. -/
theorem V42Base.Unmatched.restart (hp : p.wf = true) (h : x.Unmatched p) (c : Octet) : (x.restart c).Sound p := by
  obtain ⟨ha, hw, -⟩ := id h
  obtain ⟨hlen, -, -⟩ := Params.wf_arena hp
  obtain ⟨hroot, -⟩ := ha.root.1 c
  have huse := ha.inUse_of_parent_ne_free (i := Config.cwReserved + c.toNat) (by rw [hroot]; nofun)
  exact h.sound huse (V42Base.chainLen_root hlen hroot) rfl rfl hw rfl rfl

/-- R176: `acceptChar` keeps the invariants of R22. -/
theorem V42Base.Sound.acceptChar (hp : p.wf = true) (h : x.Sound p) (c : Octet) : (x.acceptChar p c).1.Sound p := by
  unfold V42Base.acceptChar
  split
  · exact h.extend ‹_›
  · split
    · exact h.unmatched.restart hp c
    · exact (h.endMatch ‹_› c).restart hp c

/-! ### After reset -/

theorem Comp.atReset_inv (hp : p.wf = true) : Comp.atReset.inv p :=
  ⟨(V42Base.atReset_sound hp).inv, by decide, by decide, by decide, by decide⟩

theorem Decomp.atReset_inv (hp : p.wf = true) : Decomp.atReset.inv p :=
  ⟨(V42Base.atReset_sound hp).inv, by decide, by decide, by decide, by decide⟩

/-- Settles O60: unit by unit, the reset values against their invariants. -/
theorem resetMeetsInvariants : Obligations.ResetMeetsInvariants := fun p hp =>
  ⟨rfl, V14.atReset_inv, Hdlc.atReset_inv, Lapm.atReset_inv p, Comp.atReset_inv hp, Decomp.atReset_inv hp⟩

end Sys2Proof.Machine
end

section
/-!
SUPPORT. The procedures of C (44_compressor.md) and of D (45_decompressor.md) keep the legal values of their registers and the
dictionary invariants (10_state.md R16, R17, R22).
-/

namespace Sys2Proof.Machine

variable {p : Params}

/-! ### Unit C -/

section C

variable {c : Comp} {k : Nat}

/-- C's legal values with a canonical dictionary, the mode test at least `k` octets away (R16, log 15): between the count and
its new start in C.WRITE `k` is 0, at the end of an operation 1. -/
structure Comp.Sound (p : Params) (k : Nat) (c : Comp) : Prop where
  base     : c.base.Sound p
  bitCnt   : c.bitCnt ≤ 7
  bitBuf   : c.bitBuf < 2 ^ c.bitCnt
  testPos  : k ≤ c.testCount
  testLast : c.testCount ≤ 256

theorem Comp.sound_iff : c.Sound p 1 ↔ c.base.nodesWf = true ∧ c.inv p :=
  ⟨fun ⟨⟨hn, hi⟩, hcnt, hbuf, hpos, hlast⟩ => ⟨hn, hi, hcnt, hbuf, hpos, hlast⟩,
    fun ⟨hn, hi, hcnt, hbuf, hpos, hlast⟩ => ⟨⟨hn, hi⟩, hcnt, hbuf, hpos, hlast⟩⟩

/-- The queue and the test's gain are not constrained. -/
theorem Comp.Sound.setBase (h : c.Sound p k) {x : V42Base} (hx : x.Sound p) : ({ c with base := x } : Comp).Sound p k :=
  ⟨hx, h.bitCnt, h.bitBuf, h.testPos, h.testLast⟩

/-- R191: a codeword of the current width is queued, and of C only the output changes. -/
theorem Comp.Sound.putCodeword (h : c.Sound p k) {w : Nat} (hw : w < 2 ^ c.base.codeWordSize) :
    (c.putCodeword w).Sound p k ∧ (c.putCodeword w).base = c.base := by
  obtain ⟨-, hcnt, hbuf, heq⟩ := Comp.putCodeword_streamBits c w h.bitBuf hw
  have hbase : (c.putCodeword w).base = c.base := by rw [heq]
  have htest : (c.putCodeword w).testCount = c.testCount := by rw [heq]
  exact ⟨⟨hbase ▸ h.base, hcnt, hbuf, htest ▸ h.testPos, htest ▸ h.testLast⟩, hbase⟩

/-- A control codeword fits every width (R62). -/
theorem Comp.Sound.control_lt (h : c.Sound p k) {w : Nat} (hw : w < Config.cwReserved) : w < 2 ^ c.base.codeWordSize := by
  obtain ⟨hsize, -, -⟩ := h.base.width
  calc w < 2 ^ 9 := hw.trans (by decide)
    _ ≤ 2 ^ c.base.codeWordSize := Nat.pow_le_pow_right two_pos hsize

/-- R200: `Pad` leaves no bits pending. -/
theorem Comp.Sound.pad (h : c.Sound p k) : c.pad.Sound p k := by
  obtain ⟨-, heq⟩ := Comp.pad_streamBits c h.bitCnt h.bitBuf
  rw [heq]
  exact ⟨h.base, Nat.zero_le 7, Nat.one_pos, h.testPos, h.testLast⟩

/-- R193: below a power of two, the next power of two does not pass it. -/
theorem Params.two_pow_succ_le (hp : p.wf = true) {size : Nat} (h : 2 ^ size < p.maxCodeWords) :
    2 ^ (size + 1) ≤ p.maxCodeWords := by
  obtain ⟨-, -, k, hk⟩ := Params.wf_arena hp
  rw [hk] at h ⊢
  exact Nat.pow_le_pow_right two_pos ((Nat.pow_lt_pow_iff_right one_lt_two).mp h)

/-- R193: one turn of the loop doubles the threshold. -/
theorem Comp.Sound.stepup (hp : p.wf = true) (h : c.Sound p k) (hlt : c.base.codeWordThreshold < p.maxCodeWords) :
    (c.stepup p).Sound p k ∧ (c.stepup p).base.codeWordThreshold = 2 * c.base.codeWordThreshold := by
  obtain ⟨hput, hbase⟩ := h.putCodeword (h.control_lt (w := Config.cwStepup) (by decide))
  obtain ⟨hsize, hthr, -⟩ := h.base.width
  have hdouble : 2 * c.base.codeWordThreshold = 2 ^ (c.base.codeWordSize + 1) := by rw [hthr, pow_succ, mul_comm]
  have hle : 2 * c.base.codeWordThreshold ≤ p.maxCodeWords := hdouble ▸ Params.two_pow_succ_le hp (hthr ▸ hlt)
  have hmin : min (2 * (c.putCodeword Config.cwStepup).base.codeWordThreshold) p.maxCodeWords
      = 2 * c.base.codeWordThreshold := by rw [hbase, min_eq_left hle]
  refine ⟨hput.setBase (hput.base.setWidth ?_ ?_ ?_), hmin⟩
  · rw [hbase]
    omega
  · rw [hmin, hbase, hdouble]
  · exact min_le_right _ _

/-- R193: with turns enough for the threshold to pass the arena, the width then holds the code. -/
theorem Comp.Sound.stepups (hp : p.wf = true) {code : Nat} (hcode : code < p.maxCodeWords) (fuel : Nat)
    (h : c.Sound p k) (hf : p.maxCodeWords ≤ c.base.codeWordThreshold + fuel) :
    (Comp.stepups p code fuel c).Sound p k ∧ code < 2 ^ (Comp.stepups p code fuel c).base.codeWordSize := by
  obtain ⟨-, hthr, -⟩ := h.base.width
  induction fuel generalizing c with
  | zero =>
    refine ⟨h, ?_⟩
    show code < 2 ^ c.base.codeWordSize
    omega
  | succ n ih =>
    unfold Comp.stepups
    split_ifs with hturn
    · obtain ⟨hs, hdouble⟩ := h.stepup hp hturn.2
      have hpos : 0 < c.base.codeWordThreshold := hthr ▸ Nat.two_pow_pos _
      obtain ⟨-, hthr', -⟩ := hs.base.width
      exact ih hs (by omega) hthr'
    · exact ⟨h, by omega⟩

/-- R193, R191: a code of the arena is sent at a width that holds it. -/
theorem Comp.Sound.sendCode (hp : p.wf = true) (h : c.Sound p k) {code : Nat} (hcode : code < p.maxCodeWords) :
    ((c.checkDictSize p code).putCodeword code).Sound p k := by
  obtain ⟨hs, hlt⟩ := h.stepups hp hcode p.maxCodeWords (Nat.le_add_left _ _)
  exact (hs.putCodeword hlt).1

theorem Comp.Sound.matchEnd (hp : p.wf = true) (h : c.Sound p k) {code : Nat} (hcode : code < p.maxCodeWords)
    (len : Nat) : (c.matchEnd p code len).Sound p k := by
  have hgain : ({ c with compressTest := c.compressTest + 8 * (len : Int) - (c.base.codeWordSize : Int) } : Comp).Sound p k :=
    ⟨h.base, h.bitCnt, h.bitBuf, h.testPos, h.testLast⟩
  unfold Comp.matchEnd
  dsimp only
  split
  · exact hgain
  · exact hgain.sendCode hp hcode

/-- R176, R194: the code of a match that ends was in use. -/
theorem Comp.Sound.acceptChar (hp : p.wf = true) (h : c.Sound p k) (b : Octet) : (c.acceptChar p b).Sound p k := by
  have hx := h.base.acceptChar hp b
  have hcode := fun code len => V42Base.acceptChar_code (p := p) (x := c.base) (c := b) (code := code) (len := len)
  unfold Comp.acceptChar
  generalize c.base.acceptChar p b = r at hx hcode ⊢
  obtain ⟨x, ended⟩ := r
  cases ended with
  | none => exact h.setBase hx
  | some e => exact (h.setBase hx).matchEnd hp (h.base.code_lt (hcode e.1 e.2 rfl)) e.2

/-- R198: a control codeword and the padding end a block. -/
theorem Comp.Sound.endBlock (h : c.Sound p k) {w : Nat} (hw : w < Config.cwReserved) :
    ({ (c.putCodeword w).pad with
        base := { (c.putCodeword w).pad.base with modeTransition := true } } : Comp).Sound p k := by
  have hpad := (h.putCodeword (h.control_lt hw)).1.pad
  exact hpad.setBase (hpad.base.setMode _ true)

/-- R198: the pending match is sent where there is one, then the block ends. -/
theorem Comp.Sound.flushInternal (hp : p.wf = true) (h : c.Sound p k) (enter : Bool) :
    (c.flushInternal p enter).Sound p k := by
  have hctl : (if enter then Config.cwEtm else Config.cwFlush) < Config.cwReserved := by cases enter <;> decide
  unfold Comp.flushInternal
  split
  · exact h
  · cases hc : c.base.curCode with
    | none => exact h.endBlock hctl
    | some i =>
      dsimp only
      split
      · exact h.endBlock hctl
      · exact (h.sendCode hp (h.base.code_lt hc)).endBlock hctl

/-- R196: a change of mode starts the count of the test again. -/
theorem Comp.Sound.changeMode (hp : p.wf = true) (h : c.Sound p k) : (c.changeMode p).Sound p 1 := by
  unfold Comp.changeMode
  dsimp only
  split
  · exact ⟨h.base.setMode false true, h.bitCnt, h.bitBuf, Nat.le_of_ble_eq_true rfl, Nat.le_of_ble_eq_true rfl⟩
  · have hf := h.flushInternal hp true
    exact ⟨hf.base.setMode true true, hf.bitCnt, hf.bitBuf, Nat.le_of_ble_eq_true rfl, Nat.le_of_ble_eq_true rfl⟩

theorem Comp.Sound.writeRaw (h : c.Sound p k) (b : Octet) : (c.writeRaw p b).Sound p k :=
  ⟨h.base.rollEscape b, h.bitCnt, h.bitBuf, h.testPos, h.testLast⟩

/-- R192: the periods are legal counts. -/
theorem testPeriod_le (transparent : Bool) : 1 ≤ testPeriod transparent ∧ testPeriod transparent ≤ 256 := by
  cases transparent <;> decide

/-- R195, step 3: the count of the test runs down to 1, and starts again from a period. -/
theorem Comp.Sound.modeTest (hp : p.wf = true) (h : c.Sound p 1) : (c.modeTest p).Sound p 1 := by
  have hcount : ({ c with testCount := c.testCount - 1 } : Comp).Sound p 0 :=
    ⟨h.base, h.bitCnt, h.bitBuf, Nat.zero_le _, (Nat.sub_le _ _).trans h.testLast⟩
  unfold Comp.modeTest
  dsimp only
  split_ifs with h0
  · exact hcount.changeMode hp
  · obtain ⟨hpos, hlast⟩ := testPeriod_le c.base.transparent
    exact ⟨h.base, h.bitCnt, h.bitBuf, hpos, hlast⟩
  · exact ⟨h.base, h.bitCnt, h.bitBuf, Nat.one_le_iff_ne_zero.mpr h0, hcount.testLast⟩

/-- R195: the three steps of C.WRITE. -/
theorem Comp.Sound.write (hp : p.wf = true) (h : c.Sound p 1) (b : Octet) : (c.write p b).Sound p 1 :=
  ((h.writeRaw b).acceptChar hp b).modeTest hp

theorem Comp.Sound.flush (hp : p.wf = true) (h : c.Sound p k) : (c.flush p).Sound p k := h.flushInternal hp false

theorem Comp.Sound.setOut (h : c.Sound p k) (q : List Octet) : ({ c with out := q } : Comp).Sound p k :=
  ⟨h.base, h.bitCnt, h.bitBuf, h.testPos, h.testLast⟩

theorem Comp.atReset_sound (hp : p.wf = true) : Comp.atReset.Sound p 1 :=
  Comp.sound_iff.mpr ⟨V42Base.atReset_nodesWf, Comp.atReset_inv hp⟩

/-- R150: what L does to C. -/
theorem Comp.Sound.driven (hp : p.wf = true) {d : Comp} (h : c.Sound p 1)
    (hd : Relation.ReflTransGen (Comp.Driven p) c d) : d.Sound p 1 := by
  induction hd with
  | refl => exact h
  | tail _ hstep ih =>
    rcases hstep.2 with ⟨b, rfl⟩ | rfl | rfl
    · exact ih.write hp b
    · exact ih.flush hp
    · exact ih.setOut []

end C

/-! ### Unit D -/

section D

variable {d : Decomp}

/-- D's legal values with a canonical dictionary (R17, log 15). -/
structure Decomp.Sound (p : Params) (d : Decomp) : Prop where
  base        : d.base.Sound p
  inBuf       : d.inBuf < 2 ^ d.inCnt
  inCnt       : d.inCnt < d.base.codeWordSize
  transparent : d.base.transparent = true → d.inCnt = 0
  escaped     : d.base.transparent = false → d.escaped = false

theorem Decomp.sound_iff : d.Sound p ↔ d.base.nodesWf = true ∧ d.inv p :=
  ⟨fun ⟨⟨hn, hi⟩, hbuf, hcnt, htr, hesc⟩ => ⟨hn, hi, hbuf, hcnt, htr, hesc⟩,
    fun ⟨hn, hi, hbuf, hcnt, htr, hesc⟩ => ⟨⟨hn, hi⟩, hbuf, hcnt, htr, hesc⟩⟩

/-- The fault latch is not constrained. -/
theorem Decomp.Sound.raise (h : d.Sound p) (f : Fault) : (d.raise f).Sound p :=
  ⟨h.base, h.inBuf, h.inCnt, h.transparent, h.escaped⟩

/-- The queue is not constrained. -/
theorem Decomp.Sound.setOut (h : d.Sound p) (q : List Octet) : ({ d with out := q } : Decomp).Sound p :=
  ⟨h.base, h.inBuf, h.inCnt, h.transparent, h.escaped⟩

/-- With no bits pending any width and any mode are legal, but for a pair begun in compressed mode. -/
theorem V42Base.Sound.decomp {x : V42Base} (h : x.Sound p) (f : Option Fault) (out : List Octet) {escaped : Bool}
    (he : x.transparent = false → escaped = false) :
    ({ base := x, escaped := escaped, inBuf := 0, inCnt := 0, fault := f, out := out } : Decomp).Sound p := by
  obtain ⟨hsize, -, -⟩ := h.width
  exact ⟨h, Nat.one_pos, (Nat.succ_pos 8).trans_le hsize, fun _ => rfl, he⟩

/-- R222: an output octet leaves the width and the mode. -/
theorem Decomp.Sound.outByte (hp : p.wf = true) (h : d.Sound p) (b : Octet) : (d.outByte p b).Sound p := by
  refine ⟨(h.base.rollEscape b).acceptChar hp b, h.inBuf, ?_, ?_, ?_⟩
  · simpa [Decomp.outByte] using h.inCnt
  · simpa [Decomp.outByte] using h.transparent
  · simpa [Decomp.outByte] using h.escaped

theorem Decomp.Sound.outBytes (hp : p.wf = true) (h : d.Sound p) (octets : List Octet) :
    (octets.foldl (Decomp.outByte p) d).Sound p := by
  induction octets generalizing d with
  | nil => exact h
  | cons b bs ih => exact ih (h.outByte hp b)

/-- R212: the octet after the escape code, the pair being closed. -/
theorem Decomp.Sound.command (hp : p.wf = true) (h : d.Sound p) (he : d.escaped = false) (b : Octet) :
    (d.command p b).Sound p := by
  unfold Decomp.command
  split_ifs
  · exact (h.base.setMode false true).decomp _ _ fun _ => he
  · exact h.outByte hp _
  · exact (V42Base.atReset_sound hp).decomp _ _ nofun
  · exact h.raise _

theorem Decomp.Sound.transparentOctet (hp : p.wf = true) (h : d.Sound p) (htr : d.base.transparent = true) (b : Octet) :
    (d.transparentOctet p b).Sound p := by
  have hpair : ∀ e, ({ d with escaped := e } : Decomp).Sound p := fun e =>
    ⟨h.base, h.inBuf, h.inCnt, h.transparent, fun hf => absurd htr (by simpa using hf)⟩
  unfold Decomp.transparentOctet
  split_ifs
  · exact (hpair false).command hp rfl b
  · exact hpair true
  · exact h.outByte hp b

/-- R219: dropping the bits left of an octet. -/
theorem Decomp.Sound.doFlush (h : d.Sound p) : d.doFlush.Sound p := by
  refine ⟨h.base.setMode _ true, ?_, (Nat.sub_le _ _).trans_lt h.inCnt, fun htr => ?_, h.escaped⟩
  · show d.inBuf >>> (d.inCnt % 8) < 2 ^ (d.inCnt - d.inCnt % 8)
    rw [Nat.shiftRight_eq_div_pow, Nat.div_lt_iff_lt_mul (Nat.two_pow_pos _), ← pow_add,
      Nat.sub_add_cancel (Nat.mod_le _ _)]
    exact h.inBuf
  · show d.inCnt - d.inCnt % 8 = 0
    rw [h.transparent htr]

/-- R220: STEPUP takes the next width, within the dictionary, or faults. -/
theorem Decomp.Sound.doStepup (h : d.Sound p) : (d.doStepup p).Sound p := by
  obtain ⟨hsize, hthr, -⟩ := h.base.width
  unfold Decomp.doStepup
  split_ifs with hover
  · exact h.raise _
  · refine ⟨h.base.setWidth (hsize.trans (Nat.le_succ _)) ?_ (Nat.le_of_not_lt hover), h.inBuf,
      h.inCnt.trans (Nat.lt_succ_self _), h.transparent, h.escaped⟩
    rw [hthr, pow_succ, mul_comm]

/-- R217 to R221: an extracted codeword. -/
theorem Decomp.Sound.codeword (hp : p.wf = true) (h : d.Sound p) (w : Nat) : (d.codeword p w).Sound p := by
  unfold Decomp.codeword
  split_ifs
  · exact (h.base.setMode true true).decomp _ _ nofun
  · exact h.doFlush
  · exact h.doStepup
  · unfold Decomp.dataCodeword
    split_ifs
    · exact h.raise _
    · exact h.outBytes hp _

/-- R217: with fewer bits than a codeword's width nothing is extracted. -/
theorem Decomp.extract_of_lt (h : d.inCnt < d.base.codeWordSize) (fuel : Nat) : Decomp.extract p fuel d = d := by
  cases fuel with
  | zero => rfl
  | succ n =>
    rw [Decomp.extract, if_neg]
    rintro ⟨-, hle, -⟩
    omega

/-- R217: an octet completes at most one codeword, a codeword having at least nine bits. -/
theorem Decomp.Sound.compressedOctet (hp : p.wf = true) (h : d.Sound p) (htr : d.base.transparent = false)
    (hf : d.fault = none) (b : Octet) : (d.compressedOctet p b).Sound p := by
  obtain ⟨hsize, -, -⟩ := h.base.width
  have hcnt := h.inCnt
  have hbuf : d.inBuf ||| b.toNat <<< d.inCnt < 2 ^ (d.inCnt + 8) := by
    refine Nat.or_lt_two_pow (h.inBuf.trans_le (Nat.pow_le_pow_right two_pos (Nat.le_add_right _ _))) ?_
    rw [Nat.shiftLeft_eq, pow_add, mul_comm]
    exact Nat.mul_lt_mul_of_pos_left b.isLt (Nat.two_pow_pos _)
  unfold Decomp.compressedOctet
  by_cases hle : d.base.codeWordSize ≤ d.inCnt + 8
  · have hrest : ({ d with
        inBuf := (d.inBuf ||| b.toNat <<< d.inCnt) >>> d.base.codeWordSize
        inCnt := d.inCnt + 8 - d.base.codeWordSize } : Decomp).Sound p := by
      refine ⟨h.base, ?_, ?_, fun ht => absurd ht (by simp [htr]), h.escaped⟩
      · show (d.inBuf ||| b.toNat <<< d.inCnt) >>> d.base.codeWordSize < 2 ^ (d.inCnt + 8 - d.base.codeWordSize)
        rwa [Nat.shiftRight_eq_div_pow, Nat.div_lt_iff_lt_mul (Nat.two_pow_pos _), ← pow_add, Nat.sub_add_cancel hle]
      · show d.inCnt + 8 - d.base.codeWordSize < d.base.codeWordSize
        omega
    rw [Decomp.extract, if_pos ⟨htr, hle, hf⟩]
    have hword := hrest.codeword hp ((d.inBuf ||| b.toNat <<< d.inCnt) % 2 ^ d.base.codeWordSize)
    rw [Decomp.extract_of_lt hword.inCnt]
    exact hword
  · rw [Decomp.extract_of_lt (Nat.lt_of_not_le hle)]
    exact ⟨h.base, hbuf, Nat.lt_of_not_le hle, fun ht => absurd ht (by simp [htr]), h.escaped⟩

/-- R211: the body of D.WRITE. -/
theorem Decomp.Sound.write (hp : p.wf = true) (h : d.Sound p) (b : Octet) : (d.write p b).Sound p := by
  unfold Decomp.write
  split_ifs with hf htr
  · exact h
  · exact h.transparentOctet hp htr b
  · exact h.compressedOctet hp (by simpa using htr) (by simpa using hf) b

theorem Decomp.Sound.writes (hp : p.wf = true) (h : d.Sound p) (octets : List Octet) : (d.writes p octets).Sound p := by
  induction octets generalizing d with
  | nil => exact h
  | cons b bs ih => exact ih (h.write hp b)

theorem Decomp.Sound.afterCodeword (hp : p.wf = true) (h : d.Sound p) (w : Nat) : (d.afterCodeword p w).Sound p := by
  unfold Decomp.afterCodeword
  split
  · exact h
  · exact h.codeword hp w

theorem Decomp.atReset_sound (hp : p.wf = true) : Decomp.atReset.Sound p :=
  Decomp.sound_iff.mpr ⟨V42Base.atReset_nodesWf, Decomp.atReset_inv hp⟩

/-- R150: what L does to D. -/
theorem Decomp.Sound.driven (hp : p.wf = true) {k : Decomp} (h : d.Sound p)
    (hk : Relation.ReflTransGen (Decomp.Driven p) d k) : k.Sound p := by
  induction hk with
  | refl => exact h
  | tail _ hstep ih =>
    rcases hstep.2 with ⟨b, rfl⟩ | rfl
    · exact ih.write hp b
    · exact ih.setOut []

end D

/-! ### The instructions -/

section Instructions

variable {i : Instr} {s : State}

/-- The legal values of C and D in a machine with allowed parameters (R4, R16, R17, R22). -/
structure State.CodecSound (s : State) : Prop where
  params : s.cfg.wf = true
  comp   : s.c.Sound s.cfg 1
  decomp : s.d.Sound s.cfg

theorem exec_c_sound (hi : unitOf i = .c) (hs : s.CodecSound) : AllNext (·.c.Sound s.cfg 1) (exec i s) := by
  obtain ⟨hp, hc, -⟩ := hs
  have hr : ∀ r, (s.answer r).c.Sound s.cfg 1 := fun _ => hc
  cases i with
  | cWrite b => exact allNext_whenWritten hr (allNext_done (hc.write hp b))
  | cCmode => exact allNext_whenWritten hr (allNext_done (hc.changeMode hp))
  | cFlush => exact allNext_whenWritten hr (allNext_done (hc.flush hp))
  | cReset => exact allNext_done (Comp.atReset_sound hp)
  | cPop => exact allNext_whenWritten hr (allNext_popQueue hr fun q _ => hc.setOut q)
  | _ => cases hi

theorem exec_d_sound (hi : unitOf i = .d) (hs : s.CodecSound) : AllNext (·.d.Sound s.cfg) (exec i s) := by
  obtain ⟨hp, -, hd⟩ := hs
  have hr : ∀ r, (s.answer r).d.Sound s.cfg := fun _ => hd
  cases i with
  | dWrite b | tData b => exact allNext_dInput hr fun _ _ => hd.write hp b
  | dReset => exact allNext_done (Decomp.atReset_sound hp)
  | dPop => exact allNext_whenWritten hr (allNext_popQueue hr fun q _ => hd.setOut q)
  | ecm | eid | tReset | tBadcmd => exact allNext_dInput hr fun _ _ => hd.writes hp _
  | cwEtm | cwFlush | cwStepup | cwData => exact allNext_dInput hr fun _ _ => hd.afterCodeword hp _
  | _ => cases hi

/-- An operation keeps the legal values of C and D: C's and D's by their own procedures, V's and H's by their frame, and L's
because it drives C and D by C.WRITE, C.FLUSH and D.WRITE only. -/
theorem exec_codecSound (i : Instr) (hs : s.CodecSound) : AllNext State.CodecSound (exec i s) := by
  intro t ht
  obtain ⟨hp, hc, hd⟩ := id hs
  cases hi : unitOf i with
  | v =>
    rw [exec_onlyV hi t ht]
    exact ⟨hp, hc, hd⟩
  | h =>
    rw [exec_onlyH hi t ht]
    exact ⟨hp, hc, hd⟩
  | c =>
    have hc' := exec_c_sound hi hs t ht
    rw [exec_onlyC hi t ht]
    exact ⟨hp, hc', hd⟩
  | d =>
    have hd' := exec_d_sound hi hs t ht
    rw [exec_onlyD hi t ht]
    exact ⟨hp, hc, hd'⟩
  | l =>
    by_cases hreset : i = .lReset
    · subst hreset
      rw [done_next_iff.mp ht]
      exact ⟨hp, Comp.atReset_sound hp, Decomp.atReset_sound hp⟩
    · have hk := exec_lKeeps hi hreset t ht
      have hcfg := hk.cfg
      exact ⟨by rwa [hcfg], by rw [hcfg]; exact hc.driven hp hk.comp, by rw [hcfg]; exact hd.driven hp hk.decomp⟩

end Instructions

/-- Settles O59: `exec_codecSound` for the instruction of a step; what else a step does is outside the units. -/
theorem codecInvKept : Obligations.CodecInvKept := by
  intro s t hp hmem hc hd ht
  simp only [Memory.wf, Bool.and_eq_true] at hmem
  obtain ⟨⟨hcn, hdn⟩, -⟩ := hmem
  have hs : s.CodecSound := ⟨hp, Comp.sound_iff.mpr ⟨hcn, hc⟩, Decomp.sound_iff.mpr ⟨hdn, hd⟩⟩
  have hinv : ∀ {u : State}, u.CodecSound → u.c.inv u.cfg ∧ u.d.inv u.cfg := fun hu =>
    ⟨(Comp.sound_iff.mp hu.comp).2, (Decomp.sound_iff.mp hu.decomp).2⟩
  rcases step_cases ht with rfl | ⟨rest, octets, rfl⟩ | ⟨rest, r, rfl⟩ | ⟨rest, i, hi⟩
  · exact ⟨rfl, hc, hd⟩
  · exact ⟨rfl, hc, hd⟩
  · exact ⟨rfl, hc, hd⟩
  · have hs' : (s.setInput rest).CodecSound := ⟨hs.params, hs.comp, hs.decomp⟩
    obtain ⟨-, -, -, hcfg, -⟩ := exec_outGrows i _ t hi
    exact ⟨hcfg, hinv (exec_codecSound i hs' t hi)⟩

end Sys2Proof.Machine
end

section
/-!
SUPPORT. The canonical form of the two dictionaries and of the stored frames (20_memory.md R30, log 15) under the procedures of
C, D and L, and under every step. Unlike the invariants of R22 it needs no premise on the parameters or on the registers.
-/

namespace Sys2Proof.Machine

variable {p : Params}

/-! ### The dictionary -/

section Dictionary

variable {x y : V42Base}

/-- The canonical form is one of the nodes alone. -/
theorem V42Base.nodesWf_congr (h : y.node = x.node) : y.nodesWf = x.nodesWf := by
  simp only [V42Base.nodesWf, h]

theorem V42Base.endMatch_nodesWf (h : x.nodesWf = true) (i : Nat) (c : Octet) : (x.endMatch p i c).nodesWf = true := by
  unfold V42Base.endMatch
  split
  · have hadd : ({ x.addChild i c x.nextCodeWord with lastAdded := some x.nextCodeWord } : V42Base).nodesWf = true :=
      V42Base.addChild_nodesWf i c _ h
    exact V42Base.recoverNode_nodesWf p hadd
  · exact h

/-- R176: of its steps only the second writes nodes. -/
theorem V42Base.acceptChar_nodesWf (h : x.nodesWf = true) (c : Octet) : (x.acceptChar p c).1.nodesWf = true := by
  unfold V42Base.acceptChar
  split
  · exact h
  · split
    · exact h
    · exact V42Base.endMatch_nodesWf h _ c

theorem V42Base.rollEscape_nodesWf (h : x.nodesWf = true) (b : Octet) : (x.rollEscape b).nodesWf = true := by
  rw [V42Base.rollEscape_eq]
  exact h

end Dictionary

/-! ### Unit C: only `acceptChar` writes nodes -/

section C

variable (c : Comp)

@[simp] theorem Comp.drain_base (fuel : Nat) : (Comp.drain fuel c).base = c.base := by
  induction fuel generalizing c with
  | zero => rfl
  | succ n ih =>
    unfold Comp.drain
    split
    · exact ih _
    · rfl

@[simp] theorem Comp.putCodeword_base (w : Nat) : (c.putCodeword w).base = c.base := Comp.drain_base _ _

@[simp] theorem Comp.pad_base : c.pad.base = c.base := by
  unfold Comp.pad
  split <;> rfl

/-- R193: a turn of the loop writes the widths. -/
@[simp] theorem Comp.stepup_node : (c.stepup p).base.node = c.base.node := by simp [Comp.stepup]

@[simp] theorem Comp.stepups_node (code fuel : Nat) : (Comp.stepups p code fuel c).base.node = c.base.node := by
  induction fuel generalizing c with
  | zero => rfl
  | succ n ih =>
    unfold Comp.stepups
    split
    · rw [ih, Comp.stepup_node]
    · rfl

@[simp] theorem Comp.checkDictSize_node (code : Nat) : (c.checkDictSize p code).base.node = c.base.node :=
  Comp.stepups_node _ _ _

@[simp] theorem Comp.matchEnd_node (code len : Nat) : (c.matchEnd p code len).base.node = c.base.node := by
  unfold Comp.matchEnd
  dsimp only
  split
  · rfl
  · simp

@[simp] theorem Comp.flushInternal_node (enter : Bool) : (c.flushInternal p enter).base.node = c.base.node := by
  unfold Comp.flushInternal
  split
  · rfl
  · dsimp only
    split
    · simp
    · split <;> simp

@[simp] theorem Comp.changeMode_node : (c.changeMode p).base.node = c.base.node := by
  unfold Comp.changeMode
  dsimp only
  split
  · rfl
  · simp

@[simp] theorem Comp.modeTest_node : (c.modeTest p).base.node = c.base.node := by
  unfold Comp.modeTest
  dsimp only
  split_ifs
  · simp
  · rfl
  · rfl

/-- R176: C's `MatchEnd` writes no node. -/
theorem Comp.acceptChar_node (b : Octet) : (c.acceptChar p b).base.node = (c.base.acceptChar p b).1.node := by
  unfold Comp.acceptChar
  generalize c.base.acceptChar p b = r
  obtain ⟨x, ended⟩ := r
  cases ended with
  | none => rfl
  | some e => exact Comp.matchEnd_node _ _ _

variable {c}

/-- R195: C.WRITE writes nodes in its second step only. -/
theorem Comp.write_nodesWf (h : c.base.nodesWf = true) (b : Octet) : (c.write p b).base.nodesWf = true := by
  have hnode : (c.write p b).base.node = ((c.writeRaw p b).base.acceptChar p b).1.node := by
    rw [Comp.write, Comp.modeTest_node, Comp.acceptChar_node]
  rw [V42Base.nodesWf_congr hnode]
  exact V42Base.acceptChar_nodesWf (V42Base.rollEscape_nodesWf h b) b

theorem Comp.changeMode_nodesWf (h : c.base.nodesWf = true) : (c.changeMode p).base.nodesWf = true := by
  rwa [V42Base.nodesWf_congr c.changeMode_node]

theorem Comp.flush_nodesWf (h : c.base.nodesWf = true) : (c.flush p).base.nodesWf = true := by
  rwa [Comp.flush, V42Base.nodesWf_congr (c.flushInternal_node false)]

/-- R150: what L does to C. -/
theorem Comp.driven_nodesWf {k : Comp} (h : c.base.nodesWf = true)
    (hk : Relation.ReflTransGen (Comp.Driven p) c k) : k.base.nodesWf = true := by
  induction hk with
  | refl => exact h
  | tail _ hstep ih =>
    rcases hstep.2 with ⟨b, rfl⟩ | rfl | rfl
    · exact Comp.write_nodesWf ih b
    · exact Comp.flush_nodesWf ih
    · exact ih

end C

/-! ### Unit D: only `OutByte` and RESET write nodes -/

section D

variable {d : Decomp}

theorem Decomp.outByte_nodesWf (h : d.base.nodesWf = true) (b : Octet) : (d.outByte p b).base.nodesWf = true :=
  V42Base.acceptChar_nodesWf (V42Base.rollEscape_nodesWf h b) b

theorem Decomp.outBytes_nodesWf (h : d.base.nodesWf = true) (octets : List Octet) :
    (octets.foldl (Decomp.outByte p) d).base.nodesWf = true := by
  induction octets generalizing d with
  | nil => exact h
  | cons b bs ih => exact ih (Decomp.outByte_nodesWf h b)

theorem Decomp.command_nodesWf (h : d.base.nodesWf = true) (b : Octet) : (d.command p b).base.nodesWf = true := by
  unfold Decomp.command
  split_ifs
  · exact h
  · exact Decomp.outByte_nodesWf h _
  · exact V42Base.atReset_nodesWf
  · exact h

theorem Decomp.transparentOctet_nodesWf (h : d.base.nodesWf = true) (b : Octet) :
    (d.transparentOctet p b).base.nodesWf = true := by
  unfold Decomp.transparentOctet
  split_ifs
  · exact Decomp.command_nodesWf (d := { d with escaped := false }) h b
  · exact h
  · exact Decomp.outByte_nodesWf h b

/-- R217 to R221: of the codewords only a data codeword writes nodes. -/
theorem Decomp.codeword_nodesWf (h : d.base.nodesWf = true) (w : Nat) : (d.codeword p w).base.nodesWf = true := by
  unfold Decomp.codeword
  split_ifs
  · exact h
  · exact h
  · unfold Decomp.doStepup
    split <;> exact h
  · unfold Decomp.dataCodeword
    split
    · exact h
    · exact Decomp.outBytes_nodesWf h _

theorem Decomp.extract_nodesWf (h : d.base.nodesWf = true) (fuel : Nat) :
    (Decomp.extract p fuel d).base.nodesWf = true := by
  induction fuel generalizing d with
  | zero => exact h
  | succ n ih =>
    unfold Decomp.extract
    split
    · refine ih (Decomp.codeword_nodesWf ?_ _)
      exact h
    · exact h

theorem Decomp.write_nodesWf (h : d.base.nodesWf = true) (b : Octet) : (d.write p b).base.nodesWf = true := by
  unfold Decomp.write
  split_ifs
  · exact h
  · exact Decomp.transparentOctet_nodesWf h b
  · unfold Decomp.compressedOctet
    refine Decomp.extract_nodesWf ?_ _
    exact h

theorem Decomp.writes_nodesWf (h : d.base.nodesWf = true) (octets : List Octet) :
    (d.writes p octets).base.nodesWf = true := by
  induction octets generalizing d with
  | nil => exact h
  | cons b bs ih => exact ih (Decomp.write_nodesWf h b)

theorem Decomp.afterCodeword_nodesWf (h : d.base.nodesWf = true) (w : Nat) :
    (d.afterCodeword p w).base.nodesWf = true := by
  unfold Decomp.afterCodeword
  split
  · exact h
  · exact Decomp.codeword_nodesWf h w

/-- R150: what L does to D. -/
theorem Decomp.driven_nodesWf {k : Decomp} (h : d.base.nodesWf = true)
    (hk : Relation.ReflTransGen (Decomp.Driven p) d k) : k.base.nodesWf = true := by
  induction hk with
  | refl => exact h
  | tail _ hstep ih =>
    rcases hstep.2 with ⟨b, rfl⟩ | rfl
    · exact Decomp.write_nodesWf ih b
    · exact ih

end D

/-! ### Unit L: stored frames are inserted, replaced, erased one by one, or all cleared -/

/-- The stored frames' keys rise strictly (R30, log 15). -/
def State.SentSorted (s : State) : Prop := Cells.sorted s.l.sentIFrames = true

@[simp] theorem State.sentSorted_setH {s : State} {x : Hdlc} : (s.setH x).SentSorted ↔ s.SentSorted := Iff.rfl

@[simp] theorem State.sentSorted_setL {s : State} {x : Lapm} :
    (s.setL x).SentSorted ↔ Cells.sorted x.sentIFrames = true := Iff.rfl

/-- R139: a frame that is queued in H is not stored. -/
@[simp] theorem State.sentSorted_lSend {s : State} {f : List Octet} {now : Nat} :
    (s.lSend f now).SentSorted ↔ s.SentSorted := by
  simp only [State.SentSorted, State.lSend, State.setL_l]

@[simp] theorem State.sentSorted_sendAdp {s : State} : s.sendAdp.SentSorted ↔ s.SentSorted := by
  simp only [State.SentSorted, State.sendAdp, State.setL_l]

/-- R146: an XID's effects leave the stored frames. -/
theorem xidParamsEffect_sentIFrames (gi : Octet) (l : Lapm) (ps : List XidParam) :
    (xidParamsEffect p gi l ps).1.sentIFrames = l.sentIFrames := by
  induction ps generalizing l with
  | nil => rfl
  | cons x xs ih =>
    refine (ih _).trans ?_
    unfold xidParamEffect
    split_ifs <;> rfl

theorem xidEffect_sentIFrames (l : Lapm) (gs : List XidGroup) :
    (xidEffect p l gs).1.sentIFrames = l.sentIFrames := by
  induction gs generalizing l with
  | nil => rfl
  | cons g gs ih =>
    refine (ih _).trans ?_
    cases g with
    | params gi ps => exact xidParamsEffect_sentIFrames gi l ps
    | skipped gi content => rfl

/-- R125: acknowledgement erases. -/
theorem Lapm.ackTo_sorted {l : Lapm} (h : Cells.sorted l.sentIFrames = true) (nr : SeqNum) (fuel : Nat) :
    Cells.sorted (Lapm.ackTo nr fuel l).sentIFrames = true := by
  induction fuel generalizing l with
  | zero => exact h
  | succ n ih =>
    unfold Lapm.ackTo
    split
    · exact h
    · exact ih (Cells.sorted_erase _ h)

namespace State.SentSorted

variable {s : State}

theorem gather (h : s.SentSorted) (k : Nat) : (s.gather k).2.SentSorted := by
  unfold State.gather
  split <;> exact h

/-- R143: a sent I-frame is stored. -/
theorem sendIFrame (h : s.SentSorted) (now : Nat) : (s.sendIFrame now).SentSorted := by
  unfold State.sendIFrame
  exact Cells.sorted_insert _ _ (State.sentSorted_lSend.mpr (h.gather _))

theorem ackIFrame (h : s.SentSorted) (nr : SeqNum) : (s.ackIFrame nr).SentSorted := by
  unfold State.ackIFrame
  split
  · exact Lapm.ackTo_sorted h nr 128
  · exact h

/-- R136: a frame that is sent again is stored again. -/
theorem resend (h : s.SentSorted) (q : SeqNum) (now : Nat) : (s.resend q now).SentSorted := by
  unfold State.resend
  split
  · exact h
  · rw [State.sentSorted_lSend]
    exact Cells.sorted_insert _ _ h

theorem resendFrom (h : s.SentSorted) (now fuel : Nat) (q : SeqNum) :
    (State.resendFrom now fuel q s).SentSorted := by
  induction fuel generalizing q s with
  | zero => exact h
  | succ n ih =>
    unfold State.resendFrom
    split
    · exact h
    · exact ih (h.resend q now) _

theorem handleReject (h : s.SentSorted) (nr : SeqNum) (now : Nat) : (s.handleReject nr now).SentSorted := by
  unfold State.handleReject
  dsimp only
  split
  · exact (h.ackIFrame nr).resendFrom _ _ _
  · exact h.ackIFrame nr

theorem deliverAll (h : s.SentSorted) (xs : List Octet) : (s.deliverAll xs).SentSorted := by
  rw [State.deliverAll_eq]
  exact h

theorem replyRr (h : s.SentSorted) (addr : Octet) (pf : Bool) (now : Nat) : (s.replyRr addr pf now).SentSorted := by
  unfold State.replyRr
  split
  · simpa using h
  · exact h

theorem handleIFrame (h : s.SentSorted) (f : List Octet) (now : Nat) : (s.handleIFrame f now).SentSorted := by
  have ha := h.ackIFrame (seqField (f.getD 2 0))
  unfold State.handleIFrame
  dsimp only
  generalize s.ackIFrame (seqField (f.getD 2 0)) = a at ha ⊢
  split
  · simpa using ha
  · have hset : (a.setL { a.l with rxSeqNum := incMod128 a.l.rxSeqNum }).SentSorted := ha
    have hd := hset.deliverAll ((f.drop 3).take (f.length - 5))
    split
    · exact hd
    · exact hd.replyRr _ _ _

theorem handleDisc (h : s.SentSorted) (addr : Octet) (pf : Bool) (now : Nat) :
    (s.handleDisc addr pf now).SentSorted := by
  have hsend : (s.lSend [addr, uOctet s.cfg.ctlUa pf] now).SentSorted := State.sentSorted_lSend.mpr h
  unfold State.handleDisc
  generalize s.lSend [addr, uOctet s.cfg.ctlUa pf] now = t at hsend ⊢
  exact hsend

theorem handleXid (h : s.SentSorted) (f : List Octet) (now : Nat) : (s.handleXid f now).SentSorted := by
  unfold State.handleXid
  split
  · exact h
  · rename_i gs _
    rw [State.sentSorted_lSend]
    show Cells.sorted (xidEffect s.cfg s.l gs).1.sentIFrames = true
    rw [xidEffect_sentIFrames]
    exact h

theorem handleS (h : s.SentSorted) (c : Octet) (nr : SeqNum) (now : Nat) : (s.handleS c nr now).SentSorted := by
  unfold State.handleS
  split_ifs
  · exact h.ackIFrame nr
  · exact h.ackIFrame nr
  · exact h.handleReject nr now
  · exact h

/-- R132: of the U frames SABME clears the stored frames (R137). -/
theorem handleU (h : s.SentSorted) (f : List Octet) (now : Nat) : (s.handleU f now).SentSorted := by
  unfold State.handleU
  dsimp only
  split_ifs
  · exact rfl
  · exact h.handleDisc _ _ now
  · exact h.handleXid f now
  · exact h

/-- R132: a frame is dropped, logged, or handled by its class. -/
theorem handleFrame (h : s.SentSorted) (f : List Octet) (now : Nat) : (s.handleFrame f now).SentSorted := by
  unfold State.handleFrame
  dsimp only
  split_ifs
  · exact h
  · exact h
  · exact h
  · exact h.handleIFrame f now
  · exact h
  · exact h.handleS _ _ now
  · exact h.handleU f now

theorem checkDetectionTimer (h : s.SentSorted) (now : Nat) : (s.checkDetectionTimer now).SentSorted := by
  unfold State.checkDetectionTimer
  split <;> exact h

theorem firstChar (h : s.SentSorted) (c : Octet) (now : Nat) : (s.firstChar c now).SentSorted := by
  unfold State.firstChar
  split <;> exact h

theorem nextChar (h : s.SentSorted) (c : Octet) (n : Nat) : (s.nextChar c n).SentSorted := by
  have hset : (s.setL (s.l.countOdp c n)).SentSorted := by
    rw [Lapm.countOdp_eq]
    exact h
  unfold State.nextChar
  dsimp only
  split
  · simpa using hset
  · exact hset

theorem detectBit (h : s.SentSorted) (b : Bool) (now : Nat) : (s.detectBit b now).SentSorted := by
  have hv : (s.vBit b).1.SentSorted := h
  unfold State.detectBit
  generalize s.vBit b = r at hv ⊢
  obtain ⟨t, char⟩ := r
  cases char with
  | none => exact hv
  | some c =>
    have hrun : (t.setV t.v.takeRun).SentSorted := hv
    dsimp only
    split
    · exact hrun.firstChar c now
    · exact hrun.nextChar c _

theorem passBit (h : s.SentSorted) (b : Bool) : (s.passBit b).SentSorted := by
  have hv : (s.vBit b).1.SentSorted := h
  unfold State.passBit
  generalize s.vBit b = r at hv ⊢
  obtain ⟨t, char⟩ := r
  cases char with
  | none | some => exact hv

theorem onHdlc (h : s.SentSorted) (r : HdlcResult) (now : Nat) : (s.onHdlc r now).SentSorted := by
  unfold State.onHdlc
  cases s.l.phase with
  | none | detection =>
    cases r with
    | frame | abort | none => exact h
  | establish | connected =>
    cases r with
    | frame f => exact h.handleFrame f now
    | abort | none => exact h
  | v14 | release => exact h

theorem hBit (h : s.SentSorted) (b : Bool) (now : Nat) : (s.hBit b now).SentSorted :=
  onHdlc (s := s.setH (s.h.rxBit b).1) h _ now

/-- R126: where a received bit goes, by the phase. -/
theorem lRxBit (h : s.SentSorted) (b : Bool) (now : Nat) : (s.lRxBit b now).SentSorted := by
  have ha := h.checkDetectionTimer now
  unfold State.lRxBit
  generalize s.checkDetectionTimer now = a at ha ⊢
  dsimp only
  cases a.l.phase with
  | none | detection =>
    dsimp only
    split
    · exact ha.hBit b now
    · exact ha.detectBit b now
  | v14 => exact ha.passBit b
  | establish | connected => exact ha.hBit b now
  | release => exact ha

theorem lRxBits (h : s.SentSorted) (now : Nat) (bits : List Bool) : (s.lRxBits now bits).SentSorted := by
  induction bits generalizing s with
  | nil => exact h
  | cons b bs ih =>
    unfold State.lRxBits
    split
    · exact h.lRxBit b now
    · exact ih (h.lRxBit b now)

theorem lFrame (h : s.SentSorted) (f : List Octet) (now : Nat) : (s.lFrame f now).SentSorted := by
  have ha := h.checkDetectionTimer now
  unfold State.lFrame
  dsimp only
  split
  · exact ha.onHdlc _ now
  · exact ha

theorem refillIdle (h : s.SentSorted) : s.refillIdle.SentSorted := by
  unfold State.refillIdle
  split <;> exact h

theorem refillV (h : s.SentSorted) : s.refillV.SentSorted := by
  unfold State.refillV
  split
  · split <;> exact h
  · exact h

theorem refillH (h : s.SentSorted) (now : Nat) : (s.refillH now).SentSorted := by
  unfold State.refillH
  split_ifs
  · exact h.sendIFrame now
  · simpa using h
  · simpa using h
  · exact h

theorem refillRelease (h : s.SentSorted) : s.refillRelease.SentSorted := by
  unfold State.refillRelease
  split <;> exact h

/-- R144: where a bit to send comes from, by the phase; PopBit leaves the stored frames. -/
theorem lTxBit (h : s.SentSorted) (now : Nat) : (s.lTxBit now).1.SentSorted := by
  have ha := h.checkDetectionTimer now
  unfold State.lTxBit
  generalize s.checkDetectionTimer now = a at ha ⊢
  dsimp only
  cases a.l.phase with
  | none | detection => exact ha.refillIdle
  | v14 => exact ha.refillV
  | establish | connected => exact ha.refillH now
  | release =>
    dsimp only
    split <;> exact ha.refillRelease

end State.SentSorted

/-! ### The instructions -/

section Instructions

variable {i : Instr} {s : State}

theorem exec_c_nodesWf (hi : unitOf i = .c) (h : s.c.base.nodesWf = true) :
    AllNext (·.c.base.nodesWf = true) (exec i s) := by
  have hr : ∀ r, (s.answer r).c.base.nodesWf = true := fun _ => h
  cases i with
  | cWrite b => exact allNext_whenWritten hr (allNext_done (Comp.write_nodesWf h b))
  | cCmode => exact allNext_whenWritten hr (allNext_done (Comp.changeMode_nodesWf h))
  | cFlush => exact allNext_whenWritten hr (allNext_done (Comp.flush_nodesWf h))
  | cReset => exact allNext_done V42Base.atReset_nodesWf
  | cPop => exact allNext_whenWritten hr (allNext_popQueue hr fun _ _ => h)
  | _ => cases hi

theorem exec_d_nodesWf (hi : unitOf i = .d) (h : s.d.base.nodesWf = true) :
    AllNext (·.d.base.nodesWf = true) (exec i s) := by
  have hr : ∀ r, (s.answer r).d.base.nodesWf = true := fun _ => h
  cases i with
  | dWrite b | tData b => exact allNext_dInput hr fun _ _ => Decomp.write_nodesWf h b
  | dReset => exact allNext_done V42Base.atReset_nodesWf
  | dPop => exact allNext_whenWritten hr (allNext_popQueue hr fun _ _ => h)
  | ecm | eid | tReset | tBadcmd => exact allNext_dInput hr fun _ _ => Decomp.writes_nodesWf h _
  | cwEtm | cwFlush | cwStepup | cwData => exact allNext_dInput hr fun _ _ => Decomp.afterCodeword_nodesWf h _
  | _ => cases hi

theorem exec_l_sentSorted (hi : unitOf i = .l) (h : s.SentSorted) : AllNext State.SentSorted (exec i s) := by
  have hr : ∀ r, (s.answer r).SentSorted := fun _ => h
  have hdone : ∀ {t : State} {r}, t.SentSorted → AllNext State.SentSorted (done t r) := fun ht => allNext_done ht
  cases i with
  | lReset => exact hdone rfl
  | lRxbit b now => exact allNext_lPump hr (hdone (h.lRxBit b now))
  | lTxbit now => exact allNext_lPump hr (hdone (h.lTxBit now))
  | v14Char | odp | adp | flag | abort | frame => exact allNext_lPump hr (hdone (h.lRxBits _ _))
  | iFrame | rr | rnr | rej | srej | sOther | sabme | disc | ua | xid | uOther | xidFi | xidGroupPublic
  | xidGroupPrivate | xidGroupUserdata | xidParamTxsize | xidParamWindow | xidParamCompreq =>
    exact allNext_lPump hr (hdone (h.lFrame _ _))
  | _ => cases hi

/-- The canonical form of the three index spaces, as a proposition. -/
theorem Memory.wf_iff :
    Memory.wf s = true ↔ s.c.base.nodesWf = true ∧ s.d.base.nodesWf = true ∧ s.SentSorted := by
  simp only [Memory.wf, Bool.and_eq_true, and_assoc, State.SentSorted]

/-- An operation keeps the canonical form: C's and D's of their dictionary and L's of the stored frames by their own
procedures, all else by the units' frames and by what L drives C and D with (R10, R150). -/
theorem exec_memory_wf (i : Instr) (hs : Memory.wf s = true) : AllNext (Memory.wf · = true) (exec i s) := by
  intro t ht
  obtain ⟨hc, hd, hl⟩ := Memory.wf_iff.mp hs
  cases hi : unitOf i with
  | v =>
    rw [exec_onlyV hi t ht]
    exact hs
  | h =>
    rw [exec_onlyH hi t ht]
    exact hs
  | c =>
    have hc' := exec_c_nodesWf hi hc t ht
    rw [exec_onlyC hi t ht]
    exact Memory.wf_iff.mpr ⟨hc', hd, hl⟩
  | d =>
    have hd' := exec_d_nodesWf hi hd t ht
    rw [exec_onlyD hi t ht]
    exact Memory.wf_iff.mpr ⟨hc, hd', hl⟩
  | l =>
    have hl' := exec_l_sentSorted hi hl t ht
    by_cases hreset : i = .lReset
    · subst hreset
      rw [done_next_iff.mp ht]
      rfl
    · have hk := exec_lKeeps hi hreset t ht
      exact Memory.wf_iff.mpr ⟨Comp.driven_nodesWf hc hk.comp, Decomp.driven_nodesWf hd hk.decomp, hl'⟩

end Instructions

/-- Settles O57: `exec_memory_wf` for the instruction of a step; what else a step does is outside the index spaces. -/
theorem memoryWfKept : Obligations.MemoryWfKept := by
  intro s t hs ht
  rcases step_cases ht with rfl | ⟨rest, octets, rfl⟩ | ⟨rest, r, rfl⟩ | ⟨rest, i, hi⟩
  · exact hs
  · exact hs
  · exact hs
  · exact exec_memory_wf (s := s.setInput rest) i hs t hi

end Sys2Proof.Machine
end

section
/-!
SUPPORT. D.WRITE in compressed mode (45_decompressor.md R217): the bits held, and the one codeword that an octet can complete.
-/

namespace Sys2Proof.Machine

variable {p : Params} {d : Decomp} {s : State}

/-- What an operation that gives D octets of its stream does, behind its refusals (R211, R233, R262). -/
theorem dInput_open (hs : s.takesStream) (k : Decomp) : dInput s k = done (s.setD k) (faultOr k.fault .none) := by
  obtain ⟨hw, hf⟩ := hs
  simp [dInput, whenWritten, whenNoFault, hw, hf]

/-- The instruction of an extracted codeword does what R217 does with it (R62, log 14). -/
theorem exec_codewordInstr (w : Nat) (s : State) :
    exec (codewordInstr w) s = dInput s (s.d.afterCodeword s.cfg w) := by
  unfold codewordInstr
  split_ifs with hetm hflush hstepup
  · rw [hetm]
    rfl
  · rw [hflush]
    rfl
  · rw [hstepup]
    rfl
  · rfl

/-- R222: output octets leave the width and the bits held. -/
theorem Decomp.outBytes_held (octets : List Octet) (d : Decomp) :
    (octets.foldl (Decomp.outByte p) d).inCnt = d.inCnt
    ∧ (octets.foldl (Decomp.outByte p) d).base.codeWordSize = d.base.codeWordSize := by
  induction octets generalizing d with
  | nil => exact ⟨rfl, rfl⟩
  | cons b bs ih =>
    obtain ⟨hcnt, hsize⟩ := ih (d.outByte p b)
    exact ⟨hcnt, by rw [List.foldl_cons, hsize]; simp [Decomp.outByte]⟩

/-- R217 to R221: where the bits left are no codeword, a codeword's effect does not make them one: the width never shrinks and
no bits are added. -/
theorem Decomp.codeword_inCnt_lt (h : d.inCnt < d.base.codeWordSize) (w : Nat) :
    (d.codeword p w).inCnt < (d.codeword p w).base.codeWordSize := by
  unfold Decomp.codeword
  split_ifs
  · exact Nat.zero_lt_of_lt h
  · exact (Nat.sub_le _ _).trans_lt h
  · unfold Decomp.doStepup
    split
    · exact h
    · exact h.trans (Nat.lt_succ_self _)
  · unfold Decomp.dataCodeword
    split
    · exact h
    · obtain ⟨hcnt, hsize⟩ := Decomp.outBytes_held (p := p) (d.base.stringOf p w) d
      rwa [hcnt, hsize]

/-- R34: an octet's bits above the bits held. -/
theorem Decomp.inBuf_or (h : d.inBuf < 2 ^ d.inCnt) (b : Octet) :
    d.inBuf ||| b.toNat <<< d.inCnt = d.inBuf + b.toNat * 2 ^ d.inCnt := by
  rw [Nat.lor_comm, ← Nat.shiftLeft_add_eq_or_of_lt h, Nat.shiftLeft_eq, Nat.add_comm]

/-- R217: an octet that does not complete a codeword is held. -/
theorem Decomp.compressedOctet_of_lt (hbuf : d.inBuf < 2 ^ d.inCnt) {b : Octet}
    (hlt : d.inCnt + 8 < d.base.codeWordSize) :
    d.compressedOctet p b = { d with inBuf := d.inBuf + b.toNat * 2 ^ d.inCnt, inCnt := d.inCnt + 8 } := by
  unfold Decomp.compressedOctet
  rw [Decomp.extract_of_lt (by exact hlt), Decomp.inBuf_or hbuf]

/-- R217: an octet completes at most one codeword, which leaves fewer bits than the next would need. -/
theorem Decomp.compressedOctet_of_le (hbuf : d.inBuf < 2 ^ d.inCnt) (hcnt : d.inCnt < d.base.codeWordSize)
    (hsize : 9 ≤ d.base.codeWordSize) (htr : d.base.transparent = false) (hf : d.fault = none) {b : Octet}
    (hle : d.base.codeWordSize ≤ d.inCnt + 8) :
    d.compressedOctet p b =
      Decomp.codeword p
        { d with
          inBuf := (d.inBuf + b.toNat * 2 ^ d.inCnt) / 2 ^ d.base.codeWordSize
          inCnt := d.inCnt + 8 - d.base.codeWordSize }
        ((d.inBuf + b.toNat * 2 ^ d.inCnt) % 2 ^ d.base.codeWordSize) := by
  unfold Decomp.compressedOctet
  rw [Decomp.extract, if_pos ⟨htr, hle, hf⟩, Decomp.extract_of_lt]
  · rw [Decomp.inBuf_or hbuf, Nat.shiftRight_eq_div_pow]
  · refine Decomp.codeword_inCnt_lt ?_ _
    show d.inCnt + 8 - d.base.codeWordSize < d.base.codeWordSize
    omega

/-- R211: D.WRITE in compressed mode. -/
theorem Decomp.write_compressed (htr : d.base.transparent = false) (hf : d.fault = none) (b : Octet) :
    d.write p b = d.compressedOctet p b := by
  simp [Decomp.write, htr, hf]

/-- Settles O49: the octet is held by `compressedOctet_of_lt`, or completes the one codeword of `compressedOctet_of_le`, whose
row does the same by `exec_codewordInstr`. -/
theorem dWriteCompressed : Obligations.DWriteCompressed := by
  intro s b hs _ hinv htr buf size
  obtain ⟨⟨⟨hsize, -, -⟩, -⟩, hbuf, hcnt, -, -⟩ := hinv
  have hexec : exec (.dWrite b) s = dInput s (s.d.compressedOctet s.cfg b) := by
    rw [← Decomp.write_compressed htr hs.2]
    rfl
  rw [hexec]
  refine ⟨fun hlt => ?_, fun hle => ?_⟩
  · rw [dInput_open hs, Decomp.compressedOctet_of_lt hbuf hlt]
    simp [done, State.answer, State.setD, faultOr, hs.2, buf]
  · rw [exec_codewordInstr, dInput_open hs, dInput_open (by exact hs),
      Decomp.compressedOctet_of_le hbuf hcnt hsize htr hs.2 hle]
    simp [Decomp.afterCodeword, htr, State.setD, buf, size]

end Sys2Proof.Machine
end

section
/-!
SUPPORT. A pattern on the line is its bits (42_lapm.md R126, log 9): no procedure on L.RXBIT's way reads the last operation's
answer (10_state.md R24, log 3), so that the answers of the single bits do not matter.
-/

namespace Sys2Proof.Machine

/-! ### The answer is not read -/

section Answer

/-- A choice that does not read the answer, between states that do not read it. -/
theorem State.ite_answer {r : Result} {P Q : Prop} [Decidable P] [Decidable Q] {t t' u u' : State} (hPQ : P ↔ Q)
    (ht : t' = t.answer r) (hu : u' = u.answer r) : (if P then t' else u') = (if Q then t else u).answer r := by
  by_cases hQ : Q
  · rw [if_pos hQ, if_pos (hPQ.mpr hQ), ht]
  · rw [if_neg hQ, if_neg (mt hPQ.mp hQ), hu]

variable (s : State) (r : Result)

theorem State.setV_answer (x : V14) : (s.answer r).setV x = (s.setV x).answer r := rfl

theorem State.setL_answer (x : Lapm) : (s.answer r).setL x = (s.setL x).answer r := rfl

theorem State.lSend_answer (f : List Octet) (now : Nat) : (s.answer r).lSend f now = (s.lSend f now).answer r := rfl

theorem State.ackIFrame_answer (nr : SeqNum) : (s.answer r).ackIFrame nr = (s.ackIFrame nr).answer r := by
  unfold State.ackIFrame
  exact State.ite_answer Iff.rfl rfl rfl

theorem State.resend_answer (q : SeqNum) (now : Nat) : (s.answer r).resend q now = (s.resend q now).answer r := by
  simp only [State.resend, State.answer_l]
  split <;> rfl

theorem State.resendFrom_answer (now fuel : Nat) (q : SeqNum) :
    State.resendFrom now fuel q (s.answer r) = (State.resendFrom now fuel q s).answer r := by
  induction fuel generalizing q s with
  | zero => rfl
  | succ n ih =>
    unfold State.resendFrom
    exact State.ite_answer Iff.rfl rfl (by rw [State.resend_answer, ih])

theorem State.handleReject_answer (nr : SeqNum) (now : Nat) :
    (s.answer r).handleReject nr now = (s.handleReject nr now).answer r := by
  unfold State.handleReject
  rw [State.ackIFrame_answer]
  exact State.ite_answer Iff.rfl (State.resendFrom_answer _ r _ _ _) rfl

theorem State.sinkWrites_answer (octets : List Octet) :
    octets.foldl State.sinkWrite (s.answer r) = (octets.foldl State.sinkWrite s).answer r := by
  induction octets generalizing s with
  | nil => rfl
  | cons o os ih => exact ih (s.sinkWrite o)

theorem State.deliver_answer (x : Octet) : (s.answer r).deliver x = (s.deliver x).answer r := by
  unfold State.deliver
  exact State.ite_answer Iff.rfl
    (State.ite_answer Iff.rfl rfl (State.sinkWrites_answer (s.setD { s.d.write s.cfg x with out := [] }) r _)) rfl

theorem State.deliverAll_answer (xs : List Octet) : (s.answer r).deliverAll xs = (s.deliverAll xs).answer r := by
  induction xs generalizing s with
  | nil => rfl
  | cons x xs ih =>
    unfold State.deliverAll
    rw [State.deliver_answer]
    exact State.ite_answer Iff.rfl rfl (ih _)

theorem State.replyRr_answer (addr : Octet) (pf : Bool) (now : Nat) :
    (s.answer r).replyRr addr pf now = (s.replyRr addr pf now).answer r := by
  unfold State.replyRr
  exact State.ite_answer Iff.rfl (State.lSend_answer s r _ now) rfl

theorem State.handleIFrame_answer (f : List Octet) (now : Nat) :
    (s.answer r).handleIFrame f now = (s.handleIFrame f now).answer r := by
  unfold State.handleIFrame
  dsimp only
  rw [State.ackIFrame_answer]
  generalize s.ackIFrame (seqField (f.getD 2 0)) = a
  rw [State.answer_l, State.setL_answer, State.deliverAll_answer]
  generalize State.deliverAll _ _ = t
  exact State.ite_answer Iff.rfl (State.lSend_answer a r _ now)
    (State.ite_answer Iff.rfl rfl (State.replyRr_answer t r _ _ now))

theorem State.handleXid_answer (f : List Octet) (now : Nat) :
    (s.answer r).handleXid f now = (s.handleXid f now).answer r := by
  simp only [State.handleXid, State.answer_l, State.answer_cfg]
  split <;> rfl

theorem State.handleS_answer (c : Octet) (nr : SeqNum) (now : Nat) :
    (s.answer r).handleS c nr now = (s.handleS c nr now).answer r := by
  unfold State.handleS
  rw [State.ackIFrame_answer, State.handleReject_answer]
  exact State.ite_answer Iff.rfl rfl (State.ite_answer Iff.rfl rfl (State.ite_answer Iff.rfl rfl rfl))

theorem State.handleU_answer (f : List Octet) (now : Nat) :
    (s.answer r).handleU f now = (s.handleU f now).answer r := by
  unfold State.handleU
  rw [State.handleXid_answer]
  exact State.ite_answer Iff.rfl rfl (State.ite_answer Iff.rfl rfl (State.ite_answer Iff.rfl rfl rfl))

theorem State.handleFrame_answer (f : List Octet) (now : Nat) :
    (s.answer r).handleFrame f now = (s.handleFrame f now).answer r := by
  simp only [State.handleFrame, State.handleIFrame_answer, State.handleS_answer, State.handleU_answer]
  split_ifs <;> rfl

theorem State.checkDetectionTimer_answer (now : Nat) :
    (s.answer r).checkDetectionTimer now = (s.checkDetectionTimer now).answer r := by
  unfold State.checkDetectionTimer
  exact State.ite_answer Iff.rfl rfl rfl

theorem State.vBit_answer (b : Bool) : (s.answer r).vBit b = ((s.vBit b).1.answer r, (s.vBit b).2) := rfl

theorem State.firstChar_answer (c : Octet) (now : Nat) :
    (s.answer r).firstChar c now = (s.firstChar c now).answer r := by
  unfold State.firstChar
  exact State.ite_answer Iff.rfl rfl rfl

theorem State.sendAdp_answer : (s.answer r).sendAdp = s.sendAdp.answer r := by
  simp only [State.sendAdp, State.answer_v, State.answer_l, State.setV_answer, State.setL_answer]

theorem State.nextChar_answer (c : Octet) (n : Nat) : (s.answer r).nextChar c n = (s.nextChar c n).answer r := by
  unfold State.nextChar
  exact State.ite_answer Iff.rfl (State.sendAdp_answer (s.setL (s.l.countOdp c n)) r) rfl

theorem State.detectBit_answer (b : Bool) (now : Nat) :
    (s.answer r).detectBit b now = (s.detectBit b now).answer r := by
  simp only [State.detectBit, State.vBit_answer]
  generalize s.vBit b = o
  obtain ⟨t, char⟩ := o
  cases char with
  | none => rfl
  | some c =>
    have hrun : (t.answer r).setV (t.answer r).v.takeRun = (t.setV t.v.takeRun).answer r := rfl
    dsimp only
    rw [hrun]
    exact State.ite_answer Iff.rfl (State.firstChar_answer _ r c now) (State.nextChar_answer _ r c _)

theorem State.passBit_answer (b : Bool) : (s.answer r).passBit b = (s.passBit b).answer r := by
  simp only [State.passBit, State.vBit_answer]
  generalize s.vBit b = o
  obtain ⟨t, char⟩ := o
  cases char with
  | none | some => rfl

theorem State.onHdlc_answer (ret : HdlcResult) (now : Nat) :
    (s.answer r).onHdlc ret now = (s.onHdlc ret now).answer r := by
  simp only [State.onHdlc, State.answer_l]
  cases s.l.phase with
  | none | detection =>
    cases ret with
    | frame | abort | none => rfl
  | establish | connected =>
    cases ret with
    | frame f => exact s.handleFrame_answer r f now
    | abort | none => rfl
  | v14 | release => rfl

theorem State.hBit_answer (b : Bool) (now : Nat) : (s.answer r).hBit b now = (s.hBit b now).answer r :=
  State.onHdlc_answer (s.setH (s.h.rxBit b).1) r _ now

/-- R126: wherever a received bit goes, the last answer is not read. -/
theorem State.lRxBit_answer (b : Bool) (now : Nat) : (s.answer r).lRxBit b now = (s.lRxBit b now).answer r := by
  simp only [State.lRxBit, State.checkDetectionTimer_answer]
  generalize s.checkDetectionTimer now = a
  simp only [State.answer_l]
  cases a.l.phase with
  | none | detection =>
    exact State.ite_answer Iff.rfl (a.hBit_answer r b now) (a.detectBit_answer r b now)
  | v14 => exact a.passBit_answer r b
  | establish | connected => exact a.hBit_answer r b now
  | release => rfl

theorem State.lRxBits_answer (now : Nat) (bits : List Bool) :
    (s.answer r).lRxBits now bits = (s.lRxBits now bits).answer r := by
  induction bits generalizing s with
  | nil => rfl
  | cons b bs ih =>
    unfold State.lRxBits
    rw [State.lRxBit_answer]
    exact State.ite_answer Iff.rfl rfl (ih _)

end Answer

/-! ### Bits one after another -/

variable {s t : State}

theorem execAll_cons {i : Instr} {is : List Instr} (h : exec i s = .next t) :
    execAll (i :: is) s = (execAll is t).map fun r => (r.1, t.result :: r.2) := by
  simp only [execAll, h]

/-- R126: L.RXBIT behind its refusals. -/
theorem exec_lRxbit_open (hs : s.pumpsOpen) (b : Bool) (now : Nat) :
    exec (.lRxbit b now) s = .next ((s.lRxBit b now).answer (faultOr (s.lRxBit b now).l.fault .none)) :=
  lPump_next_iff.mpr (.inr (.inr ⟨hs.1, hs.2, rfl⟩))

/-- R233: behind a latched fault every further bit is refused, and only the answer changes. -/
theorem execAll_lRxbits_of_fault (hw : s.written.l = true) (hf : s.l.fault ≠ none) (now : Nat) (bits : List Bool) :
    ∃ r rs, execAll (bits.map fun b => .lRxbit b now) s = some (s.answer r, rs) := by
  induction bits generalizing s with
  | nil => exact ⟨s.result, [], rfl⟩
  | cons b bs ih =>
    have hb : exec (.lRxbit b now) s = .next (s.answer (.refused .faultLatched)) :=
      lPump_next_iff.mpr (.inr (.inl ⟨hw, hf, rfl⟩))
    obtain ⟨r, rs, hrs⟩ := ih (s := s.answer (.refused .faultLatched)) hw hf
    exact ⟨r, _ :: rs, by rw [List.map_cons, execAll_cons hb, hrs]; rfl⟩

/-- R126, log 9: L.RXBIT of a pattern's bits leaves what the pattern leaves, up to the answer. -/
theorem execAll_lRxbits (hs : s.pumpsOpen) (now : Nat) (bits : List Bool) :
    ∃ r rs, execAll (bits.map fun b => .lRxbit b now) s = some ((s.lRxBits now bits).answer r, rs) := by
  induction bits generalizing s with
  | nil => exact ⟨s.result, [], rfl⟩
  | cons b bs ih =>
    have hb := exec_lRxbit_open hs b now
    have hw : (s.lRxBit b now).written.l = true := by rw [(s.lRxBit_keeps b now).written]; exact hs.1
    simp only [State.lRxBits, List.map_cons, execAll_cons hb]
    generalize s.lRxBit b now = t at hw ⊢
    generalize faultOr t.l.fault .none = a
    split
    · rename_i hf
      obtain ⟨r, rs, hrs⟩ := execAll_lRxbits_of_fault (s := t.answer a) hw (Option.isSome_iff_ne_none.mp hf) now bs
      exact ⟨r, _ :: rs, by rw [hrs]; rfl⟩
    · rename_i hf
      obtain ⟨r, rs, hrs⟩ := ih (s := t.answer a) ⟨hw, by simpa using hf⟩
      exact ⟨r, _ :: rs, by rw [hrs, State.lRxBits_answer]; rfl⟩

/-- The rows that are presented as line bits are what arrives on the line (R53, R54; logs 8, 9 and 10). -/
theorem exec_of_encode_line {i : Instr} {bits : List Bool} {now : Nat} (h : encode s.cfg i = .line bits now) :
    exec i s = lineArrives bits now s := by
  cases i with
  | v14Char | odp | adp | flag | abort | frame =>
    cases h
    rfl
  | _ => cases h

/-- Settles O26: the row is `lineArrives` of its bits, and `execAll_lRxbits` says where these lead. -/
theorem patternsAreBits : Obligations.PatternsAreBits := by
  intro s i bits now hs hi
  obtain ⟨r, rs, hrs⟩ := execAll_lRxbits hs now bits
  refine ⟨_, rs, hrs, ?_⟩
  rw [exec_of_encode_line hi, lineArrives_open hs.1 hs.2]
  rfl

end Sys2Proof.Machine
end

section
/-!
SUPPORT. The constraints of 00_scope.md R4 on the codes, each as the facts that a decoder's choice between codes needs.
-/

namespace Sys2Proof

variable {p : Params}

/-- R4, R57: S codes have bits 1..0 = 01 and differ. -/
theorem Params.wf_sCodes (hp : p.wf = true) : (∀ c ∈ p.sCodes, Params.isSCode c = true) ∧ p.sCodes.Nodup := by
  simp only [Params.wf, Bool.and_eq_true, decide_eq_true_eq, List.all_eq_true] at hp
  obtain ⟨⟨⟨⟨⟨⟨⟨-, hall⟩, hnodup⟩, -⟩, -⟩, -⟩, -⟩, -⟩ := hp
  exact ⟨hall, hnodup⟩

/-- R4, R58: U codes have bits 1..0 = 11 and bit 4 clear, and differ. -/
theorem Params.wf_uCodes (hp : p.wf = true) : (∀ c ∈ p.uCodes, Params.isUCode c = true) ∧ p.uCodes.Nodup := by
  simp only [Params.wf, Bool.and_eq_true, decide_eq_true_eq, List.all_eq_true] at hp
  obtain ⟨⟨⟨⟨⟨-, hall⟩, hnodup⟩, -⟩, -⟩, -⟩ := hp
  exact ⟨hall, hnodup⟩

/-- R4, R61: the commands of the transparent stream differ. -/
theorem Params.wf_commands (hp : p.wf = true) : p.ecm ≠ p.eid ∧ p.ecm ≠ p.resetCmd ∧ p.eid ≠ p.resetCmd := by
  simp only [Params.wf, Bool.and_eq_true, decide_eq_true_eq] at hp
  obtain ⟨⟨⟨-, hnodup⟩, -⟩, -⟩ := hp
  simpa [Params.commands, and_assoc] using hnodup

/-- R4, R146: the two public identifiers with an effect differ. -/
theorem Params.wf_xidPids (hp : p.wf = true) : p.xidPidTxsize ≠ p.xidPidWindow := by
  simp only [Params.wf, Bool.and_eq_true, decide_eq_true_eq] at hp
  exact hp.1.2

end Sys2Proof
end

section
/-!
SUPPORT. Reading back what the layouts of 20_memory.md R31 to R34 and 30_encoding.md R53 to R58 write: numbers, octets, line
bits and control octets.
-/

namespace Sys2Proof

/-! ### Numbers -/

/-- Log 5: a number operand is read back from its octets, given a turn for each. -/
theorem natOfOctets_octetsOfNatFuel (fuel n : Nat) (h : n ≤ fuel) : natOfOctets (octetsOfNatFuel fuel n) = n := by
  induction fuel generalizing n with
  | zero =>
    rw [Nat.le_zero.mp h]
    rfl
  | succ k ih =>
    unfold octetsOfNatFuel
    split
    · next h0 => simp [natOfOctets, h0]
    · rw [natOfOctets, ih _ (by omega), BitVec.toNat_ofNat]
      omega

@[simp] theorem natOfOctets_octetsOfNat (n : Nat) : natOfOctets (octetsOfNat n) = n :=
  natOfOctets_octetsOfNatFuel n n le_rfl

/-- R33: a two-octet field. -/
theorem natOfOctetsBE_pair (hi lo : Octet) : natOfOctetsBE [hi, lo] = hi.toNat * 256 + lo.toNat := by
  simp [natOfOctetsBE]

/-- R33 (b): a two-octet field is read back where it holds its number. -/
theorem natOfOctetsBE_octets2BE {n : Nat} (h : n < 65536) : natOfOctetsBE (octets2BE n) = n := by
  rw [octets2BE, natOfOctetsBE_pair, BitVec.toNat_ofNat, BitVec.toNat_ofNat]
  omega

/-- R33 (b): what a two-octet field can hold. -/
theorem natOfOctetsBE_pair_lt (hi lo : Octet) : natOfOctetsBE [hi, lo] < 65536 := by
  rw [natOfOctetsBE_pair]
  have := hi.isLt
  have := lo.isLt
  omega

/-! ### Octets and their bits (R31) -/

/-- R31: bit `i` of an octet is line bit `i`, and 0 where there is none. -/
theorem octetOfBits_getLsbD (bits : List Bool) {i : Nat} (hi : i < 8) :
    (octetOfBits bits).getLsbD i = bits.getD i false := by
  induction bits generalizing i with
  | nil => simp [octetOfBits]
  | cons b bs ih =>
    cases i with
    | zero =>
      cases b with
      | false | true => simp [octetOfBits]
    | succ i =>
      have hbit := ih (i := i) (by omega)
      rw [BitVec.getLsbD_eq_getElem (by omega)] at hbit
      cases b with
      | false | true => simpa [octetOfBits, hi] using hbit

@[simp] theorem octetOfBits_octetBits (o : Octet) : octetOfBits (octetBits o) = o := by
  refine BitVec.eq_of_getLsbD_eq fun i hi => ?_
  rw [octetOfBits_getLsbD _ hi]
  interval_cases i <;> rfl

@[simp] theorem packOctets_octetsBits (os : List Octet) : packOctets (octetsBits os) = os := by
  induction os with
  | nil => rfl
  | cons o os ih =>
    rw [Machine.octetsBits_cons]
    exact congr_arg₂ List.cons (octetOfBits_octetBits o) ih

@[simp] theorem octetsBits_length (os : List Octet) : (octetsBits os).length = 8 * os.length := by
  induction os with
  | nil => rfl
  | cons o os ih => rw [Machine.octetsBits_cons, List.length_append, Machine.octetBits_length, ih, List.length_cons]; omega

/-- R31: there is an octet for every eight bits. -/
theorem packOctets_length (bits : List Bool) : (packOctets bits).length = bits.length / 8 := by
  induction bits using packOctets.induct with
  | case1 b0 b1 b2 b3 b4 b5 b6 b7 rest ih =>
    simp only [packOctets, List.length_cons, ih]
    omega
  | case2 bits hshort =>
    have hlt : bits.length < 8 := by
      match bits, hshort with
      | b0 :: b1 :: b2 :: b3 :: b4 :: b5 :: b6 :: b7 :: rest, h => exact absurd rfl (h b0 b1 b2 b3 b4 b5 b6 b7 rest)
      | [], _ | [_], _ | [_, _], _ | [_, _, _], _ | [_, _, _, _], _ | [_, _, _, _, _], _ | [_, _, _, _, _, _], _
      | [_, _, _, _, _, _, _], _ => simp
    rw [packOctets, Nat.div_eq_of_lt hlt, List.length_nil]
    exact fun _ _ _ _ _ _ _ _ _ h => hshort _ _ _ _ _ _ _ _ _ h

/-! ### Zero-bit insertion (R54, R103) -/

/-- R54: taking the inserted 0s out gives the bits back. -/
theorem destuffBits_stuffBits (bits : List Bool) {k : Nat} (hk : k ≤ 4) :
    destuffBits k (stuffBits k bits) = some bits := by
  induction bits generalizing k with
  | nil => simp only [stuffBits, destuffBits, if_neg (show k ≠ 5 by omega)]
  | cons b bs ih =>
    cases b with
    | false => simp [stuffBits, destuffBits, show k ≠ 5 by omega, ih (Nat.zero_le 4)]
    | true =>
      by_cases h4 : k = 4
      · subst h4
        simp [stuffBits, destuffBits, ih (Nat.zero_le 4)]
      · simp [stuffBits, destuffBits, h4, show k ≠ 5 by omega, ih (show k + 1 ≤ 4 by omega)]

/-- R54: insertion never shortens. -/
theorem length_le_stuffBits (k : Nat) (bits : List Bool) : bits.length ≤ (stuffBits k bits).length := by
  induction bits generalizing k with
  | nil => exact Nat.zero_le _
  | cons b bs ih =>
    cases b with
    | false => simpa [stuffBits] using ih 0
    | true =>
      unfold stuffBits
      split
      · simpa using (ih 0).trans (Nat.le_succ _)
      · simpa using ih (k + 1)

/-! ### Control octets (R56 to R58) -/

@[simp] theorem seqField_seqOctet (n : SeqNum) (b : Bool) : seqField (seqOctet n b) = n := by
  refine BitVec.eq_of_getLsbD_eq fun i hi => ?_
  have h8 : 1 + i < 8 := by omega
  cases b with
  | false | true => simp [seqField, seqOctet, hi, h8]

@[simp] theorem getLsbD_zero_seqOctet (n : SeqNum) (b : Bool) : (seqOctet n b).getLsbD 0 = b := by
  cases b with
  | false | true => simp [seqOctet]

/-- R55, R57: the class bits of an S code. -/
theorem getLsbD_of_isSCode {c : Octet} (h : Params.isSCode c = true) : c.getLsbD 0 = true ∧ c.getLsbD 1 = false := by
  simpa [Params.isSCode] using h

/-- R55, R58: a U control octet is of class U and gives its code and P/F back. -/
theorem uOctet_fields {code : Octet} (h : Params.isUCode code = true) (pf : Bool) :
    (uOctet code pf).getLsbD 0 = true ∧ (uOctet code pf).getLsbD 1 = true ∧ uCode (uOctet code pf) = code
    ∧ uPf (uOctet code pf) = pf := by
  obtain ⟨⟨h0, h1⟩, h4⟩ : (code[0] = true ∧ code[1] = true) ∧ code[4] = false := by simpa [Params.isUCode] using h
  refine ⟨by simp [uOctet, h0], by simp [uOctet, h1], ?_, ?_⟩
  · refine BitVec.eq_of_getElem_eq fun i hi => ?_
    cases pf with
    | false | true => interval_cases i <;> simp [uCode, uOctet, h4]
  · cases pf with
    | false | true => simp [uPf, uOctet, h4]

/-- R55, R58: a control octet of class U, its P/F cleared, is a U code. -/
theorem isUCode_uCode {c : Octet} (h0 : c.getLsbD 0 = true) (h1 : c.getLsbD 1 = true) :
    Params.isUCode (uCode c) = true := by
  simp [Params.isUCode, uCode, h0, h1]

end Sys2Proof
end

section
/-!
SUPPORT. The decoder and the encoder of Decode.lean against each other (30_encoding.md R51 to R62): what each decoder reads
from its own layout, and that what it reads at all is well formed.
-/

namespace Sys2Proof

open Machine

/-! ### The operation port (R51, R52) -/

section Operands

variable {P : Instr → Prop} {args : List Octet} {i j : Instr}

theorem noOperand_ok (hi : P i) (h : noOperand args i = .ok j) : P j := by
  unfold noOperand at h
  split at h
  · cases h
    exact hi
  · cases h

theorem octetOperand_ok {f : Octet → Instr} (hf : ∀ b, P (f b)) (h : octetOperand args f = .ok j) : P j := by
  unfold octetOperand at h
  split at h
  · cases h
    exact hf _
  · cases h

theorem bitOperand_ok {f : Bool → List Octet → Except DecodeError Instr} (hf : ∀ b rest, f b rest = .ok j → P j)
    (h : bitOperand args f = .ok j) : P j := by
  unfold bitOperand at h
  split at h
  · cases h
  · split_ifs at h
    · exact hf _ _ h
    · exact hf _ _ h

/-- A host operation is well formed whatever its operands are, so only the selector matters. -/
theorem decodeOp_wellFormed (p : Params) {octets : List Octet} (h : decodeOp octets = .ok j) :
    wellFormed p j = true := by
  unfold decodeOp at h
  split at h
  · cases h
  · split at h
    case h_1 | h_9 | h_10 | h_16 =>
      cases h
      rfl
    case h_2 | h_4 | h_18 | h_23 => exact octetOperand_ok (P := (wellFormed p · = true)) (fun _ => rfl) h
    case h_8 | h_12 =>
      exact bitOperand_ok (P := (wellFormed p · = true)) (fun _ _ hb => noOperand_ok (P := (wellFormed p · = true)) rfl hb) h
    case h_15 =>
      refine bitOperand_ok (P := (wellFormed p · = true)) (fun _ _ hb => ?_) h
      cases hb
      rfl
    case h_26 => cases h
    all_goals exact noOperand_ok (P := (wellFormed p · = true)) rfl h

end Operands

/-! ### Line patterns (R53, R54, R66) -/

theorem betweenFlags_flags (mid : List Bool) : betweenFlags (flagBits ++ (mid ++ flagBits)) = some mid := by
  have hlen : (flagBits ++ (mid ++ flagBits)).length = mid.length + 16 := by
    simp only [List.length_append, flagBits, octetBits_length]
    omega
  have hclose : flagBits ++ (mid ++ flagBits) = (flagBits ++ mid) ++ flagBits := (List.append_assoc _ _ _).symm
  have hopen : (flagBits ++ mid).length = mid.length + 16 - 8 := by
    simp only [List.length_append, flagBits, octetBits_length]
    omega
  have hdrop : (flagBits ++ (mid ++ flagBits)).drop 8 = mid ++ flagBits := rfl
  unfold betweenFlags
  rw [hlen, if_pos ⟨by omega, rfl, by rw [hclose, ← hopen, List.drop_left]⟩, hdrop, Nat.add_sub_cancel,
    List.take_left]

/-- R54: the octets between the flags of a frame on the line. -/
theorem decodeFrameBits_frameBits {octets : List Octet} (h : 4 ≤ octets.length) :
    decodeFrameBits (frameBits octets) = some octets := by
  unfold decodeFrameBits frameBits
  rw [betweenFlags_flags, Option.bind_some, destuffBits_stuffBits _ (Nat.zero_le 4)]
  simp only [octetsBits_length, packOctets_octetsBits]
  rw [if_pos (by omega)]

/-- R54: a frame has four octets at least. -/
theorem le_length_of_decodeFrameBits {bits : List Bool} {octets : List Octet} (h : decodeFrameBits bits = some octets) :
    4 ≤ octets.length := by
  unfold decodeFrameBits at h
  split at h
  · cases h
  · split at h
    · cases h
      rw [packOctets_length]
      omega
    · cases h

/-- R32, R54: a frame ends with the last bit of a flag, a 0. -/
theorem decodeFrameBits_of_getLast {bits : List Bool} (h : bits.getLast? = some true) : decodeFrameBits bits = none := by
  have hflag : bits.drop (bits.length - 8) ≠ flagBits := fun hf => by
    have hlast := congrArg List.getLast? hf
    rw [List.getLast?_drop] at hlast
    split at hlast
    · cases hlast
    · rw [h] at hlast
      cases hlast
  simp [decodeFrameBits, betweenFlags, hflag]

theorem charBits_getLast (d : Octet) {stops : Nat} (h : 1 ≤ stops) : (charBits d stops).getLast? = some true := by
  obtain ⟨k, rfl⟩ := Nat.exists_eq_add_of_le' h
  rw [charBits, List.replicate_succ', ← List.append_assoc, ← List.cons_append, List.getLast?_append]
  rfl

/-- The row of a character on the line: a DC1 with 9 or 17 stop bits is ODP (R53, R66). -/
def charInstr (d : Octet) (stops now : Nat) : Instr :=
  if (d == Config.dc1Even || d == Config.dc1Odd) && Config.odpStopBits.contains stops then
    .odp (d == Config.dc1Odd) stops now
  else .v14Char d stops now

theorem charInstr_wellFormed (p : Params) (d : Octet) {stops : Nat} (h : 1 ≤ stops) (now : Nat) :
    wellFormed p (charInstr d stops now) = true := by
  unfold charInstr
  split
  · next hodp => exact (Bool.and_eq_true_iff.mp hodp).2
  · next hchar =>
    rw [Bool.not_eq_true] at hchar
    simp only [wellFormed, hchar, h, decide_true, Bool.not_false, Bool.and_self]

theorem decodeCharBits_charBits (d : Octet) {stops : Nat} (h : 1 ≤ stops) (now : Nat) :
    decodeCharBits (charBits d stops) now = .ok (charInstr d stops now) := by
  obtain ⟨k, rfl⟩ := Nat.exists_eq_add_of_le' h
  have hall : (List.replicate k true).all id = true := by simp
  have hd : octetOfBits [d.getLsbD 0, d.getLsbD 1, d.getLsbD 2, d.getLsbD 3, d.getLsbD 4, d.getLsbD 5, d.getLsbD 6,
      d.getLsbD 7] = d := octetOfBits_octetBits d
  rw [charBits, List.replicate_succ]
  simp only [octetBits, List.cons_append, List.nil_append, decodeCharBits, hall, if_true, hd, List.length_replicate,
    charInstr]
  split <;> rfl

theorem decodeCharBits_wellFormed (p : Params) {bits : List Bool} {now : Nat} {i : Instr}
    (h : decodeCharBits bits now = .ok i) : wellFormed p i = true := by
  unfold decodeCharBits at h
  split at h
  · next b0 b1 b2 b3 b4 b5 b6 b7 rest =>
    split at h
    · have hi : i = charInstr (octetOfBits [b0, b1, b2, b3, b4, b5, b6, b7]) (rest.length + 1) now := by
        unfold charInstr
        dsimp only at h
        split at h
        · next hodp =>
          cases h
          rw [if_pos hodp]
        · next hchar =>
          cases h
          rw [if_neg hchar]
      exact hi ▸ charInstr_wellFormed p _ (Nat.le_add_left 1 _) now
    · cases h
  · cases h

/-- R53: a character is no flag and no abort, for its length and its start bit; not ADP, whose 19th bit is the second start
bit; and no frame, for its last bit. -/
theorem decodeLine_charBits (d : Octet) {stops : Nat} (h : 1 ≤ stops) (now : Nat) :
    decodeLine (charBits d stops) now = .ok (charInstr d stops now) := by
  have hlen : (charBits d stops).length = stops + 9 := by
    simp only [charBits, List.length_cons, List.length_append, octetBits_length, List.length_replicate]
    omega
  have hflag : charBits d stops ≠ flagBits := fun e => by
    have := congrArg List.length e
    rw [hlen, flagBits, octetBits_length] at this
    omega
  have hall : (charBits d stops).all id = false := rfl
  have hadp : charBits d stops ≠ adpBits := fun e => by
    have hstops : stops = 27 := by
      have := congrArg List.length e
      rw [hlen, show adpBits.length = 36 from rfl] at this
      omega
    subst hstops
    have h18 := congrArg (·[18]?) e
    exact absurd h18 (by show some true ≠ some false; decide)
  rw [decodeLine, if_neg hflag, if_neg (by simp [hall]), if_neg hadp,
    decodeFrameBits_of_getLast (charBits_getLast d h)]
  exact decodeCharBits_charBits d h now

theorem decodeLine_frameBits {octets : List Octet} (h : 4 ≤ octets.length) (now : Nat) :
    decodeLine (frameBits octets) now = .ok (.frame octets now) := by
  have hlen : 36 < (frameBits octets).length := by
    have := length_le_stuffBits 0 (octetsBits octets)
    rw [octetsBits_length] at this
    simp only [frameBits, List.length_append, flagBits, octetBits_length]
    omega
  have hflag : frameBits octets ≠ flagBits := fun e => by simp [e, flagBits] at hlen
  have hadp : frameBits octets ≠ adpBits := fun e => by simp [e, show adpBits.length = 36 from rfl] at hlen
  have hall : (frameBits octets).all id = false := rfl
  rw [decodeLine, if_neg hflag, if_neg (by simp [hall]), if_neg hadp, decodeFrameBits_frameBits h]

theorem decodeLine_abort {ones : Nat} (h : 7 ≤ ones) (now : Nat) :
    decodeLine (List.replicate ones true) now = .ok (.abort ones now) := by
  have hflag : List.replicate ones true ≠ flagBits := fun e => by
    have hmem : false ∈ List.replicate ones true := e ▸ (by decide : false ∈ flagBits)
    cases List.eq_of_mem_replicate hmem
  rw [decodeLine, if_neg hflag, if_pos (by simp [h]), List.length_replicate]

theorem decodeLine_wellFormed (p : Params) {bits : List Bool} {now : Nat} {i : Instr} (h : decodeLine bits now = .ok i) :
    wellFormed p i = true := by
  unfold decodeLine at h
  split_ifs at h with _ habort
  · cases h
    rfl
  · cases h
    exact decide_eq_true habort.1
  · cases h
    rfl
  · split at h
    · next hf =>
      cases h
      exact decide_eq_true (le_length_of_decodeFrameBits hf)
    · exact decodeCharBits_wellFormed p h

/-! ### Control fields (R56 to R58) -/

section Control

variable {p : Params} (hp : p.wf = true) (addr : Octet) (now : Nat)

/-- R56: an I-frame. -/
theorem decodeFrame_i (ns nr : SeqNum) (pf : Bool) (info : List Octet) :
    decodeFrame p (addr :: seqOctet ns false :: seqOctet nr pf :: info) now = .ok (.iFrame addr ns nr pf info now) := by
  simp only [decodeFrame, getLsbD_zero_seqOctet, seqField_seqOctet, if_true]

/-- R55, R57: an S frame is told by its code. -/
theorem decodeFrame_s {code : Octet} (hc : Params.isSCode code = true) (nr : SeqNum) (pf : Bool) :
    decodeFrame p [addr, code, seqOctet nr pf] now = .ok (decodeS p addr code nr pf now) := by
  obtain ⟨h0, h1⟩ := getLsbD_of_isSCode hc
  simp only [decodeFrame, h0, h1, Bool.true_eq_false, if_false, if_true, getLsbD_zero_seqOctet, seqField_seqOctet]

/-- R55, R58: a U frame is told by its code, P/F masked. -/
theorem decodeFrame_u {code : Octet} (hc : Params.isUCode code = true) (pf : Bool) (info : List Octet) :
    decodeFrame p (addr :: uOctet code pf :: info) now = .ok (decodeU p addr code pf info now) := by
  obtain ⟨h0, h1, hcode, hpf⟩ := uOctet_fields hc pf
  simp only [decodeFrame, h0, h1, Bool.true_eq_false, if_false, hcode, hpf]

include hp

/-- R57: the four known S codes differ, so each is read as itself. -/
theorem decodeS_known (nr : SeqNum) (pf : Bool) :
    decodeS p addr p.ctlRr nr pf now = .rr addr nr pf now ∧ decodeS p addr p.ctlRnr nr pf now = .rnr addr nr pf now
    ∧ decodeS p addr p.ctlRej nr pf now = .rej addr nr pf now
    ∧ decodeS p addr p.ctlSrej nr pf now = .srej addr nr pf now := by
  have hnodup := (Params.wf_sCodes hp).2
  simp only [Params.sCodes, List.nodup_cons, List.mem_cons, List.not_mem_nil, or_false, not_or] at hnodup
  obtain ⟨⟨h1, h2, h3⟩, ⟨h4, h5⟩, h6, -⟩ := hnodup
  simp [decodeS, Ne.symm h1, Ne.symm h2, Ne.symm h3, Ne.symm h4, Ne.symm h5, Ne.symm h6]

/-- R58: the four known U codes differ, so each is read as itself. -/
theorem decodeU_known (pf : Bool) (info : List Octet) :
    decodeU p addr p.ctlSabme pf info now = .sabme addr pf now ∧ decodeU p addr p.ctlDisc pf info now = .disc addr pf now
    ∧ decodeU p addr p.ctlUa pf info now = .ua addr pf now
    ∧ decodeU p addr p.ctlXid pf info now = .xid addr pf info now := by
  have hnodup := (Params.wf_uCodes hp).2
  simp only [Params.uCodes, List.nodup_cons, List.mem_cons, List.not_mem_nil, or_false, not_or] at hnodup
  obtain ⟨⟨h1, h2, h3⟩, ⟨h4, h5⟩, h6, -⟩ := hnodup
  simp [decodeU, h3, h5, h6, Ne.symm h1, Ne.symm h2, Ne.symm h4]

omit hp

/-- R57: any other S code. -/
theorem decodeS_other {code : Octet} (hc : p.sCodes.contains code = false) (nr : SeqNum) (pf : Bool) :
    decodeS p addr code nr pf now = .sOther addr code nr pf now := by
  simp only [Params.sCodes, List.contains_eq_mem, decide_eq_false_iff_not, List.mem_cons, List.not_mem_nil, or_false,
    not_or] at hc
  obtain ⟨h1, h2, h3, h4⟩ := hc
  simp only [decodeS, if_neg h1, if_neg h2, if_neg h3, if_neg h4]

/-- R58: any other U code. -/
theorem decodeU_other {code : Octet} (hc : p.uCodes.contains code = false) (pf : Bool) (info : List Octet) :
    decodeU p addr code pf info now = .uOther addr code pf now := by
  simp only [Params.uCodes, List.contains_eq_mem, decide_eq_false_iff_not, List.mem_cons, List.not_mem_nil, or_false,
    not_or] at hc
  obtain ⟨h1, h2, h3, h4⟩ := hc
  simp only [decodeU, if_neg h1, if_neg h2, if_neg h3, if_neg h4]

theorem decodeS_wellFormed {code : Octet} (hc : Params.isSCode code = true) (nr : SeqNum) (pf : Bool) :
    wellFormed p (decodeS p addr code nr pf now) = true := by
  by_cases hmem : p.sCodes.contains code = true
  · unfold decodeS
    split_ifs with h1 h2 h3 h4
    iterate 4 rfl
    · simp [Params.sCodes, h1, h2, h3, h4] at hmem
  · rw [decodeS_other addr now (by simpa using hmem)]
    simpa [wellFormed, hc] using hmem

theorem decodeU_wellFormed {code : Octet} (hc : Params.isUCode code = true) (pf : Bool) (info : List Octet) :
    wellFormed p (decodeU p addr code pf info now) = true := by
  by_cases hmem : p.uCodes.contains code = true
  · unfold decodeU
    split_ifs with h1 h2 h3 h4
    iterate 4 rfl
    · simp [Params.uCodes, h1, h2, h3, h4] at hmem
  · rw [decodeU_other addr now (by simpa using hmem)]
    simpa [wellFormed, hc] using hmem

/-- R55: the class of the first control octet is what makes an S or U code of it. -/
theorem decodeFrame_wellFormed {octets : List Octet} {i : Instr} (h : decodeFrame p octets now = .ok i) :
    wellFormed p i = true := by
  unfold decodeFrame at h
  split at h
  · next addr c rest =>
    split_ifs at h with h0 h1
    · split at h
      · cases h
        rfl
      · cases h
    · split at h
      · cases h
        have hcode : Params.isSCode c = true := by
          simp only [Params.isSCode, eq_true_of_ne_false h0, h1, Bool.not_false, Bool.and_self]
        exact decodeS_wellFormed addr now hcode _ _
      · cases h
    · cases h
      exact decodeU_wellFormed addr now (isUCode_uCode (eq_true_of_ne_false h0) (eq_true_of_ne_false h1)) _ _
  · cases h

end Control

/-! ### Items of an XID information field (R60) -/

section XidItems

variable {p : Params} (addr : Octet) (pf : Bool) (now : Nat)

/-- R60: a group's length field is its content's length. -/
theorem decodeXidTop_group (gi : Octet) {content : List Octet} (h : content.length < 65536) :
    decodeXidTop addr pf (xidGroupOctets gi content) now =
      if gi = Config.xidGidPublic then .ok (.xidGroupPublic addr pf content now)
      else if gi = Config.xidGidPrivate then .ok (.xidGroupPrivate addr pf content now)
      else if gi = Config.xidGidUser then .ok (.xidGroupUserdata addr pf content now)
      else .error .notAnXidItem := by
  have hlen := natOfOctetsBE_octets2BE h
  unfold octets2BE at hlen
  simp only [xidGroupOctets, octets2BE, List.cons_append, List.nil_append, decodeXidTop, hlen, if_true]

theorem decodeXidTop_wellFormed (p : Params) {octets : List Octet} {i : Instr}
    (h : decodeXidTop addr pf octets now = .ok i) : wellFormed p i = true := by
  unfold decodeXidTop at h
  split at h
  · split_ifs at h
    cases h
    rfl
  · next gi hi lo content =>
    split_ifs at h with hlen
    all_goals
      cases h
      exact decide_eq_true (hlen ▸ natOfOctetsBE_pair_lt hi lo)
  · cases h

/-- R60: a parameter's length octet is its value's length. -/
theorem decodeXidParam_param (gi pi : Octet) {pv : List Octet} (h : pv.length < 256) :
    decodeXidParam p gi addr pf (xidParamOctets pi pv) now =
      if gi = Config.xidGidPublic ∧ pi = p.xidPidTxsize then .ok (.xidParamTxsize addr pf pv now)
      else if gi = Config.xidGidPublic ∧ pi = p.xidPidWindow then .ok (.xidParamWindow addr pf pv now)
      else if gi = Config.xidGidPrivate ∧ pi = p.xidPidCompreq then .ok (.xidParamCompreq addr pf pv now)
      else .error .notAnXidItem := by
  have hlen : pv.length = (BitVec.ofNat 8 pv.length).toNat := by
    rw [BitVec.toNat_ofNat]
    omega
  rw [xidParamOctets, decodeXidParam, if_pos hlen]

theorem decodeXidParam_wellFormed {gi : Octet} {octets : List Octet} {i : Instr}
    (h : decodeXidParam p gi addr pf octets now = .ok i) : wellFormed p i = true := by
  unfold decodeXidParam at h
  split at h
  · next pi pl pv =>
    split_ifs at h with hlen
    all_goals
      cases h
      exact decide_eq_true (hlen ▸ pl.isLt)
  · cases h

end XidItems

/-! ### The streams (R61, R62) -/

/-- R61: the commands differ, and any other octet is none of them. -/
theorem decodeStream_escaped {p : Params} (hp : p.wf = true) :
    decodeStream p true p.ecm = .ecm ∧ decodeStream p true p.eid = .eid ∧ decodeStream p true p.resetCmd = .tReset
    ∧ ∀ cmd, p.commands.contains cmd = false → decodeStream p true cmd = .tBadcmd cmd := by
  obtain ⟨h1, h2, h3⟩ := Params.wf_commands hp
  refine ⟨by simp [decodeStream], by simp [decodeStream, Ne.symm h1], by simp [decodeStream, Ne.symm h2, Ne.symm h3],
    fun cmd hcmd => ?_⟩
  have hne : cmd ≠ p.ecm ∧ cmd ≠ p.eid ∧ cmd ≠ p.resetCmd := by simpa [Params.commands] using hcmd
  simp [decodeStream, hne]

theorem decodeStream_wellFormed (p : Params) (escaped : Bool) (b : Octet) :
    wellFormed p (decodeStream p escaped b) = true := by
  unfold decodeStream
  split_ifs with _ h1 h2 h3
  iterate 3 rfl
  · simp [wellFormed, Params.commands, h1, h2, h3]
  · rfl

/-- R62: a value from CW_RESERVED on is a data codeword. -/
theorem decodeCodeword_data {w : Nat} (h3 : Config.cwReserved ≤ w) (h : w < 65536) :
    decodeCodeword w = .ok (.cwData w) := by
  have hres : 3 ≤ w := h3
  unfold decodeCodeword Config.cwEtm Config.cwFlush Config.cwStepup
  rw [if_neg (by omega), if_neg (by omega), if_neg (by omega), if_pos h]

theorem decodeCodeword_wellFormed (p : Params) {w : Nat} {i : Instr} (h : decodeCodeword w = .ok i) :
    wellFormed p i = true := by
  unfold decodeCodeword Config.cwEtm Config.cwFlush Config.cwStepup at h
  split_ifs at h with h0 h1 h2 h16
  iterate 3
    cases h
    rfl
  cases h
  have h3 : Config.cwReserved ≤ w := by
    show 3 ≤ w
    omega
  simp [wellFormed, h3, h16]

/-! ### Both ways -/

/-- R51 to R62: what decodes is well formed. -/
theorem decode_wellFormed {p : Params} {x : Input} {i : Instr} (h : decode p x = .ok i) : wellFormed p i = true := by
  cases x with
  | op octets => exact decodeOp_wellFormed p h
  | line bits now => exact decodeLine_wellFormed p h
  | frame octets now => exact decodeFrame_wellFormed now h
  | xidTop addr pf octets now => exact decodeXidTop_wellFormed addr pf now p h
  | xidParam gi addr pf octets now => exact decodeXidParam_wellFormed addr pf now h
  | stream escaped b =>
    cases h
    exact decodeStream_wellFormed p escaped b
  | codeword w => exact decodeCodeword_wellFormed p h
  | supply octets => cases h

/-- R51 to R62: a well-formed instruction is decoded from its own presentation, by the layout of its format. -/
theorem decode_encode {p : Params} (hp : p.wf = true) {i : Instr} (h : wellFormed p i = true) :
    decode p (encode p i) = .ok i := by
  have hs := (Params.wf_sCodes hp).1
  have hu := (Params.wf_uCodes hp).1
  simp only [Params.sCodes, Params.uCodes, List.forall_mem_cons] at hs hu
  obtain ⟨hrr, hrnr, hrej, hsrej, -⟩ := hs
  obtain ⟨hsabme, hdisc, hua, hxid, -⟩ := hu
  obtain ⟨hecm, heid, hreset, hbad⟩ := decodeStream_escaped hp
  cases i with
  | v14Setsb n => exact congrArg (Except.ok ∘ Instr.v14Setsb) (natOfOctets_octetsOfNat n)
  | lTxbit now => exact congrArg (Except.ok ∘ Instr.lTxbit) (natOfOctets_octetsOfNat now)
  | lRxbit b now =>
    cases b with
    | false | true => exact congrArg (Except.ok ∘ Instr.lRxbit _) (natOfOctets_octetsOfNat now)
  | v14Rxbit b | hRxbit b =>
    cases b with
    | false | true => rfl
  | v14Tx | v14Flush | v14Rx | v14Rsb | v14Pop | v14Reset | hCrc16 | hSendframe | hSendflag | hPop | hReset | lReset
  | cWrite | cCmode | cFlush | cReset | cPop | dWrite | dReset | dPop => rfl
  | v14Char d stops now =>
    simp only [wellFormed, Bool.and_eq_true, decide_eq_true_eq, Bool.not_eq_true'] at h
    obtain ⟨hstops, hchar⟩ := h
    rw [encode, decode, decodeLine_charBits d hstops, charInstr, hchar]
    rfl
  | odp parity stops now =>
    have hstops : 1 ≤ stops := by
      rcases (by simpa [wellFormed, Config.odpStopBits] using h : stops = 9 ∨ stops = 17) with rfl | rfl <;> decide
    have hodp : Config.odpStopBits.contains stops = true := h
    rw [encode, decode, decodeLine_charBits _ hstops, charInstr, hodp]
    cases parity with
    | false | true => rfl
  | adp now => rfl
  | flag now => rfl
  | abort ones now => exact decodeLine_abort (of_decide_eq_true h) now
  | frame octets now => exact decodeLine_frameBits (of_decide_eq_true h) now
  | iFrame addr ns nr pf info now => exact decodeFrame_i addr now ns nr pf info
  | rr addr nr pf now =>
    exact (decodeFrame_s addr now hrr nr pf).trans (congrArg _ (decodeS_known hp addr now nr pf).1)
  | rnr addr nr pf now =>
    exact (decodeFrame_s addr now hrnr nr pf).trans (congrArg _ (decodeS_known hp addr now nr pf).2.1)
  | rej addr nr pf now =>
    exact (decodeFrame_s addr now hrej nr pf).trans (congrArg _ (decodeS_known hp addr now nr pf).2.2.1)
  | srej addr nr pf now =>
    exact (decodeFrame_s addr now hsrej nr pf).trans (congrArg _ (decodeS_known hp addr now nr pf).2.2.2)
  | sOther addr code nr pf now =>
    obtain ⟨hcode, hother⟩ := Bool.and_eq_true_iff.mp h
    exact (decodeFrame_s addr now hcode nr pf).trans (congrArg _ (decodeS_other addr now (by simpa using hother) nr pf))
  | sabme addr pf now =>
    exact (decodeFrame_u addr now hsabme pf []).trans (congrArg _ (decodeU_known hp addr now pf []).1)
  | disc addr pf now =>
    exact (decodeFrame_u addr now hdisc pf []).trans (congrArg _ (decodeU_known hp addr now pf []).2.1)
  | ua addr pf now =>
    exact (decodeFrame_u addr now hua pf []).trans (congrArg _ (decodeU_known hp addr now pf []).2.2.1)
  | xid addr pf info now =>
    exact (decodeFrame_u addr now hxid pf info).trans (congrArg _ (decodeU_known hp addr now pf info).2.2.2)
  | uOther addr code pf now =>
    obtain ⟨hcode, hother⟩ := Bool.and_eq_true_iff.mp h
    exact (decodeFrame_u addr now hcode pf []).trans (congrArg _ (decodeU_other addr now (by simpa using hother) pf []))
  | xidFi addr pf now => rfl
  | xidGroupPublic addr pf content now | xidGroupPrivate addr pf content now | xidGroupUserdata addr pf content now =>
    rw [encode, decode, decodeXidTop_group addr pf now _ (of_decide_eq_true h)]
    rfl
  | xidParamTxsize addr pf pv now =>
    rw [encode, decode, decodeXidParam_param addr pf now _ _ (of_decide_eq_true h), if_pos ⟨rfl, rfl⟩]
  | xidParamWindow addr pf pv now =>
    rw [encode, decode, decodeXidParam_param addr pf now _ _ (of_decide_eq_true h),
      if_neg (fun e => Params.wf_xidPids hp e.2.symm), if_pos ⟨rfl, rfl⟩]
  | xidParamCompreq addr pf pv now =>
    rw [encode, decode, decodeXidParam_param addr pf now _ _ (of_decide_eq_true h), if_neg (fun e => absurd e.1 (by decide)),
      if_neg (fun e => absurd e.1 (by decide)), if_pos ⟨rfl, rfl⟩]
  | tData b => rfl
  | ecm => exact congrArg _ hecm
  | eid => exact congrArg _ heid
  | tReset => exact congrArg _ hreset
  | tBadcmd cmd => exact congrArg _ (hbad cmd (by simpa [wellFormed] using h))
  | cwEtm | cwFlush | cwStepup => rfl
  | cwData w =>
    obtain ⟨h3, hw⟩ := Bool.and_eq_true_iff.mp h
    exact decodeCodeword_data (of_decide_eq_true h3) (of_decide_eq_true hw)

/-- Settles O1: `decode_encode` one way, row by row, and `decode_wellFormed` the other, format by format. -/
theorem decodeEncodeAgree : Obligations.DecodeEncodeAgree := fun _ _ _ hp => ⟨decode_encode hp, decode_wellFormed⟩

/-- Settles O2: each word is evaluated by the decoder. -/
theorem sampleWords : Obligations.SampleWords := by
  unfold Obligations.SampleWords
  decide

end Sys2Proof
end

section
/-!
SUPPORT. The transparent stream (45_decompressor.md R211 to R216, R222; 30_encoding.md R61): what an octet does outside an
escape pair and inside one, and the stream's rows as their octets given to D.WRITE (log 13).
-/

namespace Sys2Proof.Machine

variable {p : Params} {d k : Decomp} {s : State}

/-! ### What an operation on D answers -/

/-- R211: an operation that raises no fault answers nothing. -/
theorem dInput_of_noFault (hs : s.takesStream) (hk : k.fault = none) :
    dInput s k = .next { s with d := k, result := .none } := by
  rw [dInput_open hs, hk]
  rfl

/-- R233: an operation that raises a fault answers it. -/
theorem dInput_of_fault (hs : s.takesStream) {f : Fault} (hk : k.fault = some f) :
    dInput s k = .next { s with d := k, result := .fault f } := by
  rw [dInput_open hs, hk]
  rfl

/-! ### One octet -/

/-- R211: D.WRITE in transparent mode. -/
theorem Decomp.write_transparent (htr : d.base.transparent = true) (hf : d.fault = none) (b : Octet) :
    d.write p b = d.transparentOctet p b := by
  simp only [Decomp.write, htr, hf, Option.isSome_none, Bool.false_eq_true, if_false, if_true]

/-- R233: a latched fault shuts D.WRITE out. -/
theorem Decomp.write_of_fault (hf : d.fault ≠ none) (b : Octet) : d.write p b = d := by
  simp only [Decomp.write, if_pos (Option.isSome_iff_ne_none.mpr hf)]

/-- R212: the escape code opens a pair. -/
theorem Decomp.transparentOctet_escapeCode (he : d.escaped = false) :
    d.transparentOctet p d.base.escapeCode = { d with escaped := true } := by
  simp only [Decomp.transparentOctet, he, Bool.false_eq_true, if_false, if_true]

/-- R212: outside a pair any other octet is data. -/
theorem Decomp.transparentOctet_data (he : d.escaped = false) {b : Octet} (hb : b ≠ d.base.escapeCode) :
    d.transparentOctet p b = d.outByte p b := by
  simp only [Decomp.transparentOctet, he, Bool.false_eq_true, if_false, if_neg hb]

/-- R212: the octet behind the escape code is a command, and the pair is closed. -/
theorem Decomp.transparentOctet_command (he : d.escaped = false) (b : Octet) :
    Decomp.transparentOctet p { d with escaped := true } b = d.command p b := by
  have hd : ({ d with escaped := false } : Decomp) = d := by rw [← he]
  exact congrArg (Decomp.command p · b) hd

/-- R222: an octet that is not the escape code rolls none. -/
theorem Decomp.outByte_of_ne {b : Octet} (hb : b ≠ d.base.escapeCode) :
    d.outByte p b = { d with out := d.out ++ [b], base := (d.base.acceptChar p b).1 } := by
  simp only [Decomp.outByte, V42Base.rollEscape, if_neg hb]

/-- R222: the escape code itself, put out as data, rolls it by 51. -/
theorem Decomp.outByte_escapeCode (d : Decomp) :
    d.outByte p d.base.escapeCode = { d with
      out := d.out ++ [d.base.escapeCode]
      base := ({ d.base with escapeCode := d.base.escapeCode + 51 }.acceptChar p d.base.escapeCode).1 } := by
  simp only [Decomp.outByte, V42Base.rollEscape, if_true, Config.escStep]

/-- Settles O45: the two clauses of `transparentOctet` outside a pair; the row T.DATA is D.WRITE. -/
theorem dWriteTransparent : Obligations.DWriteTransparent := by
  intro s b hs htr he i hi
  have hi : exec i s = dInput s (s.d.write s.cfg b) := by
    rcases List.mem_pair.mp hi with rfl | rfl <;> rfl
  rw [hi, Decomp.write_transparent htr hs.2]
  by_cases hb : b = s.d.base.escapeCode
  · rw [if_pos hb, hb, Decomp.transparentOctet_escapeCode he]
    exact dInput_of_noFault hs hs.2
  · rw [if_neg hb, Decomp.transparentOctet_data he hb, Decomp.outByte_of_ne hb]
    exact dInput_of_noFault hs hs.2

/-! ### The escape pairs -/

/-- R61, R212: with no pair open the escape code and the octet behind it are that command. -/
theorem Decomp.pair_eq_command (htr : d.base.transparent = true) (hf : d.fault = none) (he : d.escaped = false)
    (cmd : Octet) : d.pair p cmd = d.command p cmd := by
  have hopen : d.write p d.base.escapeCode = { d with escaped := true } := by
    rw [Decomp.write_transparent htr hf, Decomp.transparentOctet_escapeCode he]
  have hcmd : Decomp.write p { d with escaped := true } cmd = d.command p cmd := by
    rw [Decomp.write_transparent (by exact htr) (by exact hf), Decomp.transparentOctet_command he]
  rw [Decomp.pair, Decomp.writes, List.foldl_cons, List.foldl_cons, List.foldl_nil, hopen, hcmd]

/-- R213 to R216: the commands, which differ. -/
theorem Decomp.command_eq (hp : p.wf = true) (d : Decomp) :
    d.command p p.ecm = d.enterCompressed ∧ d.command p p.eid = d.outByte p d.base.escapeCode
    ∧ d.command p p.resetCmd = d.codecReset
    ∧ ∀ cmd, p.commands.contains cmd = false → d.command p cmd = d.raise (.badCommand cmd) := by
  obtain ⟨h1, h2, h3⟩ := Params.wf_commands hp
  refine ⟨by simp only [Decomp.command, if_true], by simp only [Decomp.command, if_neg (Ne.symm h1), if_true],
    by simp only [Decomp.command, if_neg (Ne.symm h2), if_neg (Ne.symm h3), if_true], fun cmd hcmd => ?_⟩
  have hne : cmd ≠ p.ecm ∧ cmd ≠ p.eid ∧ cmd ≠ p.resetCmd := by simpa [Params.commands] using hcmd
  simp only [Decomp.command, if_neg hne.1, if_neg hne.2.1, if_neg hne.2.2]

/-- R212: the command octet by itself, behind an escape code, does what the whole pair does. -/
theorem exec_dWrite_command (hs : s.takesStream) (htr : s.d.base.transparent = true) (he : s.d.escaped = false)
    (cmd : Octet) :
    exec (.dWrite cmd) { s with d := { s.d with escaped := true } } = dInput s (s.d.pair s.cfg cmd) := by
  have hw : Decomp.write s.cfg { s.d with escaped := true } cmd = s.d.command s.cfg cmd := by
    rw [Decomp.write_transparent (by exact htr) (by exact hs.2), Decomp.transparentOctet_command he]
  rw [Decomp.pair_eq_command htr hs.2 he, ← hw, dInput_open hs]
  exact dInput_open (by exact hs) _

/-- Settles O46: a pair is its command by `pair_eq_command`, and `command_eq` says what each does. -/
theorem escapePairs : Obligations.EscapePairs := by
  intro s cmd hs hp htr he
  obtain ⟨hecm, heid, hreset, hbad⟩ := Decomp.command_eq hp s.d
  have hrow : ∀ c, dInput s (s.d.pair s.cfg c) = dInput s (s.d.command s.cfg c) := fun c => by
    rw [Decomp.pair_eq_command htr hs.2 he]
  have hbyItself := exec_dWrite_command hs htr he
  refine ⟨?_, ?_, ?_, fun hwf => ?_, hbyItself _, hbyItself _, hbyItself _, hbyItself _⟩
  · refine (hrow _).trans ?_
    rw [hecm]
    exact dInput_of_noFault hs hs.2
  · refine (hrow _).trans ?_
    rw [heid, Decomp.outByte_escapeCode]
    exact dInput_of_noFault hs hs.2
  · refine (hrow _).trans ?_
    rw [hreset, dInput_of_noFault hs (by exact hs.2), Decomp.codecReset, ← he]
  · refine (hrow _).trans ?_
    rw [hbad cmd (by simpa [wellFormed] using hwf)]
    exact dInput_of_fault hs rfl

/-! ### Several octets -/

/-- R211, R233: D.WRITE leaves D as its body does; behind a latched fault that is as it was. -/
theorem exec_dWrite_written (hw : s.written.d = true) (b : Octet) :
    ∃ r, exec (.dWrite b) s = .next ((s.setD (s.d.write s.cfg b)).answer r) := by
  by_cases hf : s.d.fault = none
  · exact ⟨_, dInput_open ⟨hw, hf⟩ _⟩
  · refine ⟨.refused .faultLatched, dInput_next_iff.mpr (.inr (.inl ⟨hw, hf, ?_⟩))⟩
    rw [Decomp.write_of_fault hf]
    rfl

/-- R211: D.WRITE of several octets one after another, up to the answers. -/
theorem execAll_dWrites (hw : s.written.d = true) (octets : List Octet) :
    ∃ r rs, execAll (octets.map .dWrite) s = some ((s.setD (s.d.writes s.cfg octets)).answer r, rs) := by
  induction octets generalizing s with
  | nil => exact ⟨s.result, [], rfl⟩
  | cons b bs ih =>
    obtain ⟨r, hb⟩ := exec_dWrite_written hw b
    obtain ⟨r', rs, hbs⟩ := ih (s := (s.setD (s.d.write s.cfg b)).answer r) hw
    exact ⟨r', _ :: rs, by rw [List.map_cons, execAll_cons hb, hbs]; rfl⟩

/-- R61, log 13: a pair is D.WRITE of its two octets in every mode. -/
theorem execAll_pair (hs : s.takesStream) (cmd : Octet) :
    ∃ u rs, execAll [.dWrite s.d.base.escapeCode, .dWrite cmd] s = some (u, rs)
      ∧ dInput s (s.d.pair s.cfg cmd) = .next { u with result := faultOr u.d.fault .none } := by
  obtain ⟨r, rs, hrs⟩ := execAll_dWrites hs.1 [s.d.base.escapeCode, cmd]
  exact ⟨_, rs, hrs, dInput_open hs _⟩

/-- R217, log 14: in transparent mode no codeword is extracted. -/
theorem dInput_afterCodeword_transparent (hs : s.takesStream) (htr : s.d.base.transparent = true) (w : Nat) :
    dInput s (s.d.afterCodeword s.cfg w) = .next { s with result := .none } := by
  rw [Decomp.afterCodeword, if_pos htr]
  exact dInput_of_noFault hs hs.2

/-- Settles O47: the rows of the transparent stream by `execAll_pair`, those of the codeword stream by
`dInput_afterCodeword_transparent`. -/
theorem streamRowsInEveryMode : Obligations.StreamRowsInEveryMode := by
  intro s b cmd w hs
  refine ⟨rfl, fun e he => ?_, fun htr i hi => ?_⟩
  · simp only [List.mem_cons, List.not_mem_nil, or_false] at he
    rcases he with rfl | rfl | rfl | rfl
    all_goals exact execAll_pair hs _
  · simp only [List.mem_cons, List.not_mem_nil, or_false] at hi
    rcases hi with rfl | rfl | rfl | rfl
    all_goals exact dInput_afterCodeword_transparent hs htr _

end Sys2Proof.Machine
end

section
/-!
SUPPORT. The codeword stream (45_decompressor.md R218 to R221; 30_encoding.md R62): what each extracted codeword does.
-/

namespace Sys2Proof.Machine

variable {p : Params} {d : Decomp} {s : State}

/-- R217: an extracted codeword in compressed mode. -/
theorem Decomp.afterCodeword_compressed (htr : d.base.transparent = false) (w : Nat) :
    d.afterCodeword p w = d.codeword p w := by
  simp only [Decomp.afterCodeword, htr, Bool.false_eq_true, if_false]

/-- R62, R221: a codeword from CW_RESERVED on is a data codeword. -/
theorem Decomp.codeword_data {w : Nat} (hw : 3 ≤ w) : d.codeword p w = d.dataCodeword p w := by
  unfold Decomp.codeword Config.cwEtm Config.cwFlush Config.cwStepup
  rw [if_neg (by omega), if_neg (by omega), if_neg (by omega)]

/-- R219: the bits of whole octets are left. -/
theorem Decomp.doFlush_eq (d : Decomp) :
    d.doFlush = { d with
      base := { d.base with modeTransition := true }
      inBuf := d.inBuf / 2 ^ (d.inCnt % 8), inCnt := d.inCnt / 8 * 8 } := by
  have hcnt : d.inCnt - d.inCnt % 8 = d.inCnt / 8 * 8 := by omega
  simp only [Decomp.doFlush, Nat.shiftRight_eq_div_pow, hcnt]

/-- R221, R222: a string is put out octet by octet, and the dictionary accepts each in turn. -/
theorem Decomp.outBytes_eq (octets : List Octet) (d : Decomp) :
    octets.foldl (Decomp.outByte p) d = { d with
      out := d.out ++ octets
      base := octets.foldl
        (fun x b => ((if b = x.escapeCode then { x with escapeCode := x.escapeCode + 51 } else x).acceptChar p b).1)
        d.base } := by
  induction octets generalizing d with
  | nil => simp
  | cons b bs ih =>
    rw [List.foldl_cons, ih]
    simp only [Decomp.outByte, V42Base.rollEscape, Config.escStep, List.append_assoc, List.singleton_append,
      List.foldl_cons]

/-- Settles O48: a lemma for each codeword, behind `afterCodeword_compressed`. -/
theorem codewordsEffect : Obligations.CodewordsEffect := by
  intro s w hs htr hw
  have hrow : ∀ c, dInput s (s.d.afterCodeword s.cfg c) = dInput s (s.d.codeword s.cfg c) := fun c => by
    rw [Decomp.afterCodeword_compressed htr]
  refine ⟨?_, ?_, ?_, fun hbad => ?_, fun hlt huse => ?_⟩
  · exact (hrow _).trans (dInput_of_noFault hs hs.2)
  · refine (hrow Config.cwFlush).trans ?_
    rw [show s.d.codeword s.cfg Config.cwFlush = s.d.doFlush from rfl, Decomp.doFlush_eq]
    exact dInput_of_noFault hs hs.2
  · refine (hrow Config.cwStepup).trans ?_
    rw [show s.d.codeword s.cfg Config.cwStepup = s.d.doStepup s.cfg from rfl, Decomp.doStepup]
    split
    · exact dInput_of_fault hs rfl
    · exact dInput_of_noFault hs hs.2
  · refine (hrow w).trans ?_
    rw [Decomp.codeword_data hw, Decomp.dataCodeword, if_pos hbad]
    exact dInput_of_fault hs rfl
  · refine (hrow w).trans ?_
    rw [Decomp.codeword_data hw, Decomp.dataCodeword, if_neg (by simp [huse, hlt]), Decomp.outBytes_eq]
    exact dInput_of_noFault hs hs.2

end Sys2Proof.Machine
end

section
/-!
SUPPORT. One V.14 character on the line, bit by bit, as V receives it (40_v14_framer.md R84): from Idle the start bit and
the data bits lead to the stop bits, the eighth data bit completes the character, and the stop bits are counted.
-/

namespace Sys2Proof.Machine

variable {v w : V14}

/-- R84: V behind the last data bit of the character `d`. -/
def V14.dataDone (v : V14) (d : Octet) : V14 :=
  { v with rxState := .stopBit, rxCurByte := d, rxBitCount := 8, rxStopBits := 0, missGap := v.nextMissGap }

/-- R84: V behind `stops` stop bits, the run of 1s being the longest so far or not. -/
def V14.stopsDone (v : V14) (stops : Nat) : V14 :=
  { v with rxState := .idle, rxStopBits := stops, maxStopBits := max v.maxStopBits stops }

theorem V14.nextMissGap_eq (v : V14) : v.nextMissGap = BitVec.ofNat 3 (min (v.missGap.toNat + 1) 5) := by
  unfold V14.nextMissGap
  generalize v.missGap = m
  revert m
  decide

/-- The octet that packing several bits makes of `cur`, from position `n` on (R31). -/
def orBits (cur : Octet) : Nat → List Bool → Octet
  | _, [] => cur
  | n, b :: bs => orBits (orBit cur n b) (n + 1) bs

/-- R84: data bits before the eighth are packed, complete nothing and log nothing. -/
theorem V14.rxBits_receiving (hv : v.rxState = .receiving) (bits : List Bool)
    (hn : v.rxBitCount.toNat + bits.length ≤ 7) :
    v.rxBits bits = ⟨{ v with
      rxCurByte := orBits v.rxCurByte v.rxBitCount.toNat bits
      rxBitCount := v.rxBitCount + BitVec.ofNat 4 bits.length }, none, []⟩ := by
  induction bits generalizing v with
  | nil => simp [V14.rxBits, orBits]
  | cons b bs ih =>
    rw [List.length_cons] at hn
    have hcnt : (v.rxBitCount + 1).toNat = v.rxBitCount.toNat + 1 := by bv_omega
    have h8 : v.rxBitCount + 1 ≠ 8 := by bv_omega
    have hlen : v.rxBitCount + 1 + BitVec.ofNat 4 bs.length = v.rxBitCount + BitVec.ofNat 4 (b :: bs).length := by
      rw [List.length_cons]
      bv_omega
    have hb : v.rxBit b =
        ⟨{ v with rxCurByte := orBit v.rxCurByte v.rxBitCount.toNat b, rxBitCount := v.rxBitCount + 1 }, none, []⟩ := by
      simp only [V14.rxBit, hv, V14.rxData, if_neg h8]
    rw [V14.rxBits, hb, ih (by exact hv) (by show (v.rxBitCount + 1).toNat + bs.length ≤ 7; omega)]
    simp only [orBits, hcnt, hlen, Option.or, List.append_nil]

/-- R84: the start bit and seven data bits complete nothing and log nothing; the eighth data bit then completes `d`. -/
theorem V14.rxBits_data (hv : v.rxState = .idle) (d : Octet) :
    ∃ w, v.rxBits (false :: (octetBits d).take 7) = ⟨w, none, []⟩
      ∧ w.rxBit (d.getLsbD 7) = ⟨v.dataDone d, some d, []⟩ := by
  have hcur : orBit (orBits 0 0 ((octetBits d).take 7)) 7 (d.getLsbD 7) = d := by
    revert d
    decide +kernel
  have hstart : v.rxBit false = ⟨v.startChar, none, []⟩ := by
    simp only [V14.rxBit, hv, Bool.false_eq_true, if_false]
  have hlen : ((octetBits d).take 7).length = 7 := rfl
  refine ⟨{ v with
    rxState := .receiving, rxCurByte := orBits 0 0 ((octetBits d).take 7), rxBitCount := 7, rxStopBits := 0 }, ?_, ?_⟩
  · rw [V14.rxBits, hstart, V14.rxBits_receiving rfl _ (by rw [hlen]; exact le_refl 7), hlen]
    rfl
  · simp only [V14.rxBit, V14.rxData]
    rw [if_pos (by decide), show (7 : BitVec 4).toNat = 7 from rfl, hcur]
    rfl

/-- R84: in Idle 1s are counted, the longest run with them. -/
theorem V14.rxBits_idle (hv : v.rxState = .idle) (hrun : v.rxStopBits ≤ v.maxStopBits) (n : Nat) :
    v.rxBits (List.replicate n true) = ⟨v.stopsDone (v.rxStopBits + n), none, []⟩ := by
  induction n generalizing v with
  | zero =>
    cases v
    cases hv
    simp only [List.replicate_zero, V14.rxBits, V14.stopsDone, Nat.add_zero, Nat.max_eq_left hrun]
  | succ n ih =>
    have hb : v.rxBit true =
        ⟨{ v with rxStopBits := v.rxStopBits + 1, maxStopBits := max v.maxStopBits (v.rxStopBits + 1) }, none, []⟩ := by
      simp only [V14.rxBit, hv, if_true]
    have hmax : max (max v.maxStopBits (v.rxStopBits + 1)) (v.rxStopBits + 1 + n)
        = max v.maxStopBits (v.rxStopBits + (n + 1)) := by
      omega
    rw [List.replicate_succ, V14.rxBits, hb, ih (by exact hv) (Nat.le_max_right _ _)]
    simp only [V14.stopsDone, hmax, Option.or, List.append_nil]
    rw [Nat.add_assoc, Nat.add_comm 1 n]

/-- R84: the stop bits of a character. -/
theorem V14.rxBits_stops (hv : v.rxState = .stopBit) {stops : Nat} (h : 1 ≤ stops) :
    v.rxBits (List.replicate stops true) = ⟨v.stopsDone stops, none, []⟩ := by
  obtain ⟨n, rfl⟩ := Nat.exists_eq_add_of_le' h
  have hb : v.rxBit true = ⟨v.stopsDone 1, none, []⟩ := by
    simp only [V14.rxBit, hv, if_true, V14.stopsDone]
  have hmax : max (max v.maxStopBits 1) (n + 1) = max v.maxStopBits (n + 1) := by omega
  rw [List.replicate_succ, V14.rxBits, hb, V14.rxBits_idle rfl (Nat.le_max_right _ _)]
  simp only [V14.stopsDone, Nat.add_comm 1 n, hmax, Option.or, List.append_nil]

/-- R84: V behind a character has legal values again. -/
theorem V14.dataDone_inv (hv : v.inv) (d : Octet) : (v.dataDone d).inv := by
  obtain ⟨-, -, hstop, -, htx, -⟩ := hv
  refine ⟨by simp [V14.dataDone], nofun, hstop, ?_, htx, v.nextMissGap_le⟩
  show d >>> 8 = 0
  revert d
  decide +kernel

end Sys2Proof.Machine
end

section
/-!
SUPPORT. One V.14 character on the line, as L receives it before ADP (42_lapm.md R126, R127, R128, R131): the bits that
complete no character change V alone, and the eighth data bit does what the phase makes of the character.
-/

namespace Sys2Proof.Machine

variable {s : State} {now : Nat}

/-! ### Line bits one after another -/

/-- R126: the bits go to V at time `now`: phase V14, or None or Detection before ADP and before expiry. -/
def State.readsV14 (s : State) (now : Nat) : Prop :=
  s.l.phase = .v14
  ∨ (s.l.adpSent = false ∧ (s.l.phase = .none ∨ (s.l.phase = .detection ∧ now < s.l.detStart + 750)))

/-- Log 9: a pattern without a fault can be cut in two. -/
theorem State.lRxBits_append (now : Nat) (as bs : List Bool) (s : State) (h : (s.lRxBits now as).l.fault = none) :
    s.lRxBits now (as ++ bs) = (s.lRxBits now as).lRxBits now bs := by
  induction as generalizing s with
  | nil => rfl
  | cons a as ih =>
    simp only [List.cons_append, State.lRxBits] at h ⊢
    by_cases hf : (s.lRxBit a now).l.fault.isSome
    · rw [if_pos hf] at h
      rw [h] at hf
      cases hf
    · rw [if_neg hf] at h ⊢
      rw [if_neg hf]
      exact ih _ h

theorem State.lRxBits_singleton (s : State) (now : Nat) (b : Bool) : s.lRxBits now [b] = s.lRxBit b now := by
  simp only [State.lRxBits, ite_self]

/-- R84: what V makes of a bit without an event. -/
theorem State.vBit_of_rxBit {b : Bool} {v : V14} {char : Option Octet} (h : s.v.rxBit b = ⟨v, char, []⟩) :
    s.vBit b = (s.setV v, char) := by
  rw [State.vBit_eq, h, List.append_nil]
  rfl

/-- R126, R127: before ADP a bit goes to V and, with the character that it completes, to detection. -/
theorem State.lRxBit_detect (hadp : s.l.adpSent = false)
    (hp : s.l.phase = .none ∨ (s.l.phase = .detection ∧ now < s.l.detStart + 750)) (b : Bool) :
    s.lRxBit b now = s.detectBit b now := by
  rcases hp with hp | ⟨hp, ht⟩
  · simp only [State.lRxBit, checkDetectionTimer_of_ne (show s.l.phase ≠ .detection by simp [hp]), hp, hadp,
      Bool.false_eq_true, if_false]
  · simp only [State.lRxBit, checkDetectionTimer_of_lt (show now < s.l.detStart + Config.t400 from ht), hp, hadp,
      Bool.false_eq_true, if_false]

/-- R126, R131: in phase V14 a bit goes to V. -/
theorem State.lRxBit_pass (hp : s.l.phase = .v14) (b : Bool) : s.lRxBit b now = s.passBit b := by
  simp only [State.lRxBit, checkDetectionTimer_of_ne (show s.l.phase ≠ .detection by simp [hp]), hp]

/-- R126: a bit that completes no character changes V alone. -/
theorem State.lRxBit_quiet (h : s.readsV14 now) {b : Bool} {v : V14} (hb : s.v.rxBit b = ⟨v, none, []⟩) :
    s.lRxBit b now = s.setV v := by
  rcases h with hp | ⟨hadp, hp⟩
  · rw [State.lRxBit_pass hp, State.passBit, State.vBit_of_rxBit hb]
  · rw [State.lRxBit_detect hadp hp, State.detectBit, State.vBit_of_rxBit hb]

/-- R126: bits that complete no character change V alone. -/
theorem State.lRxBits_quiet (h : s.readsV14 now) (hf : s.l.fault = none) {bits : List Bool} {v : V14}
    (hb : s.v.rxBits bits = ⟨v, none, []⟩) : s.lRxBits now bits = s.setV v := by
  induction bits generalizing s with
  | nil =>
    cases hb
    rfl
  | cons b bs ih =>
    simp only [V14.rxBits, V14Step.mk.injEq, Option.or_eq_none_iff, List.append_eq_nil_iff] at hb
    obtain ⟨hv, ⟨hchars, hchar⟩, hevent, hevents⟩ := hb
    have hone : s.lRxBit b now = s.setV (s.v.rxBit b).v := by
      refine State.lRxBit_quiet h ?_
      rw [← hchar, ← hevent]
    have hrest : (s.v.rxBit b).v.rxBits bs = ⟨v, none, []⟩ := by
      rw [← hv, ← hchars, ← hevents]
    rw [State.lRxBits, hone, if_neg (by simp [hf])]
    exact ih (s := s.setV (s.v.rxBit b).v) h hf hrest

/-! ### The data bits -/

/-- R84, R126: the data bits of a character up to the eighth, which completes it. -/
theorem State.lRxBits_data (h : s.readsV14 now) (hf : s.l.fault = none) (hv : s.v.rxState = .idle) (d : Octet) :
    ∃ t : State, s.lRxBits now (false :: octetBits d) = t.lRxBit (d.getLsbD 7) now ∧ t.l = s.l
      ∧ t.vBit (d.getLsbD 7) = (s.setV (s.v.dataDone d), some d) := by
  obtain ⟨w, hw, hlast⟩ := V14.rxBits_data hv d
  have hquiet := State.lRxBits_quiet h hf hw
  have hsplit : false :: octetBits d = false :: (octetBits d).take 7 ++ [d.getLsbD 7] := rfl
  refine ⟨s.setV w, ?_, rfl, State.vBit_of_rxBit hlast⟩
  rw [hsplit, State.lRxBits_append _ _ _ _ (by rw [hquiet]; exact hf), hquiet, State.lRxBits_singleton]

/-- R131: in phase V14 the character goes to the sink. -/
theorem State.lRxBits_data_v14 (hp : s.l.phase = .v14) (hf : s.l.fault = none) (hv : s.v.rxState = .idle) (d : Octet) :
    s.lRxBits now (false :: octetBits d) = (s.setV (s.v.dataDone d)).sinkWrite d := by
  obtain ⟨t, ht, hl, hbit⟩ := State.lRxBits_data (now := now) (.inl hp) hf hv d
  rw [ht, State.lRxBit_pass (by rw [hl]; exact hp), State.passBit, hbit]

/-- R127: in phase None the character decides the phase. -/
theorem State.lRxBits_data_none (hp : s.l.phase = .none) (hadp : s.l.adpSent = false) (hf : s.l.fault = none)
    (hv : s.v.rxState = .idle) (d : Octet) :
    s.lRxBits now (false :: octetBits d) = (s.setV (s.v.dataDone d).takeRun).firstChar d now := by
  obtain ⟨t, ht, hl, hbit⟩ := State.lRxBits_data (now := now) (.inr ⟨hadp, .inl hp⟩) hf hv d
  rw [ht, State.lRxBit_detect (by rw [hl]; exact hadp) (by rw [hl]; exact .inl hp), State.detectBit, hbit]
  exact if_pos hp

/-- R127: in phase Detection the character is counted, with the run of 1s before it. -/
theorem State.lRxBits_data_detection (hp : s.l.phase = .detection) (ht : now < s.l.detStart + 750)
    (hadp : s.l.adpSent = false) (hf : s.l.fault = none) (hv : s.v.rxState = .idle) (d : Octet) :
    s.lRxBits now (false :: octetBits d) = (s.setV (s.v.dataDone d).takeRun).nextChar d s.v.maxStopBits := by
  obtain ⟨t, hbits, hl, hbit⟩ := State.lRxBits_data (now := now) (.inr ⟨hadp, .inr ⟨hp, ht⟩⟩) hf hv d
  rw [hbits, State.lRxBit_detect (by rw [hl]; exact hadp) (by rw [hl]; exact .inr ⟨hp, ht⟩), State.detectBit, hbit]
  exact if_neg (by simp [hp])

/-! ### The whole character -/

/-- R84: the stop bits of a character, where its data bits leave bits going to V. -/
theorem State.lRxBits_char {t : State} {d : Octet} (ht : s.lRxBits now (false :: octetBits d) = t)
    (h : t.readsV14 now) (hf : t.l.fault = none) (hv : t.v.rxState = .stopBit) {stops : Nat} (hstops : 1 ≤ stops) :
    s.lRxBits now (charBits d stops) = t.setV (t.v.stopsDone stops) := by
  rw [charBits, ← List.cons_append, State.lRxBits_append _ _ _ _ (by rw [ht]; exact hf), ht]
  exact State.lRxBits_quiet h hf (V14.rxBits_stops hv hstops)

/-- R131: a character in phase V14. -/
theorem State.lRxBits_char_v14 (hp : s.l.phase = .v14) (hf : s.l.fault = none) (hv : s.v.rxState = .idle) (d : Octet)
    {stops : Nat} (hstops : 1 ≤ stops) :
    s.lRxBits now (charBits d stops) = { s with v := (s.v.dataDone d).stopsDone stops, sink := s.sink ++ [d] } :=
  State.lRxBits_char (State.lRxBits_data_v14 hp hf hv d) (.inl hp) hf rfl hstops

/-- R66: the DC1 of either parity. -/
theorem isDc1_iff (c : Octet) : isDc1 c = true ↔ c = 0x11 ∨ c = 0x91 := by
  simp [isDc1, Config.dc1Even, Config.dc1Odd]

/-- R127: a DC1 in phase None starts Detection and its timer, with one repetition counted. -/
theorem State.lRxBits_char_none_dc1 (hp : s.l.phase = .none) (hadp : s.l.adpSent = false) (hf : s.l.fault = none)
    (hv : s.v.rxState = .idle) {d : Octet} (hd : isDc1 d = true) {stops : Nat} (hstops : 1 ≤ stops) :
    s.lRxBits now (charBits d stops) = { s with
      v := (s.v.dataDone d).takeRun.stopsDone stops
      l := { s.l with phase := .detection, detStart := now, odpCount := 1, lastOdp := some d } } := by
  have hdata := State.lRxBits_data_none (now := now) hp hadp hf hv d
  rw [State.firstChar, if_pos hd] at hdata
  exact State.lRxBits_char hdata (.inr ⟨hadp, .inr ⟨rfl, by show now < now + 750; omega⟩⟩) hf rfl hstops

/-- R127: any other character in phase None leads to phase V14 and is delivered. -/
theorem State.lRxBits_char_none_other (hp : s.l.phase = .none) (hadp : s.l.adpSent = false) (hf : s.l.fault = none)
    (hv : s.v.rxState = .idle) {d : Octet} (hd : isDc1 d = false) {stops : Nat} (hstops : 1 ≤ stops) :
    s.lRxBits now (charBits d stops) = { s with
      v := (s.v.dataDone d).takeRun.stopsDone stops, l := { s.l with phase := .v14 }, sink := s.sink ++ [d] } := by
  have hdata := State.lRxBits_data_none (now := now) hp hadp hf hv d
  rw [State.firstChar, if_neg (by simp [hd])] at hdata
  exact State.lRxBits_char hdata (.inl rfl) hf rfl hstops

/-! Counting a character writes the count and the last character only (R127). -/

theorem Lapm.countOdp_phase (l : Lapm) (c : Octet) (n : Nat) : (l.countOdp c n).phase = l.phase := by
  rw [Lapm.countOdp_eq]

theorem Lapm.countOdp_detStart (l : Lapm) (c : Octet) (n : Nat) : (l.countOdp c n).detStart = l.detStart := by
  rw [Lapm.countOdp_eq]

theorem Lapm.countOdp_adpSent (l : Lapm) (c : Octet) (n : Nat) : (l.countOdp c n).adpSent = l.adpSent := by
  rw [Lapm.countOdp_eq]

theorem Lapm.countOdp_fault (l : Lapm) (c : Octet) (n : Nat) : (l.countOdp c n).fault = l.fault := by
  rw [Lapm.countOdp_eq]

/-- R127: a character in phase Detection that is not the fourth repetition. -/
theorem State.lRxBits_char_detection (hp : s.l.phase = .detection) (ht : now < s.l.detStart + 750)
    (hadp : s.l.adpSent = false) (hf : s.l.fault = none) (hv : s.v.rxState = .idle) {d : Octet}
    (hcount : (s.l.countOdp d s.v.maxStopBits).odpCount ≠ 4) {stops : Nat} (hstops : 1 ≤ stops) :
    s.lRxBits now (charBits d stops) = { s with
      v := (s.v.dataDone d).takeRun.stopsDone stops, l := s.l.countOdp d s.v.maxStopBits } := by
  have hdata := State.lRxBits_data_detection hp ht hadp hf hv d
  rw [State.nextChar, if_neg (by exact hcount)] at hdata
  refine State.lRxBits_char hdata (.inr ⟨?_, .inr ⟨?_, ?_⟩⟩) ?_ rfl hstops
  · exact (Lapm.countOdp_adpSent _ _ _).trans hadp
  · exact (Lapm.countOdp_phase _ _ _).trans hp
  · exact (Lapm.countOdp_detStart s.l d s.v.maxStopBits).symm ▸ ht
  · exact (Lapm.countOdp_fault _ _ _).trans hf

/-! ### The fourth repetition -/

/-- R127: a repetition is one more. -/
theorem Lapm.countOdp_of_continues {l : Lapm} {c : Octet} {n : Nat} (h : l.continuesOdp c n = true) :
    l.countOdp c n = { l with odpCount := l.odpCount + 1, lastOdp := some c } := by
  simp only [Lapm.countOdp, h, if_true]

/-- R127: what makes a character the next repetition. -/
theorem Lapm.continuesOdp_iff (l : Lapm) (c : Octet) (n : Nat) :
    l.continuesOdp c n = true ↔
      (c = 0x11 ∨ c = 0x91) ∧ 1 ≤ l.odpCount.toNat ∧ l.lastOdp ≠ some c ∧ (n = 9 ∨ n = 17) := by
  simp [Lapm.continuesOdp, isDc1_iff, Config.odpStopBits, and_assoc]

/-- R128: the answer's two characters are queued in V, each with nine stop bits, which stay set (R274). -/
theorem V14.adp_queued {v : V14} (hv : v.inv) :
    { v with txStopBits := 9 }.queued (({ v with txStopBits := Config.adpStopBits }.tx Config.adpE).tx Config.adpC)
      (charBits 0x45 9 ++ charBits 0x43 9) := by
  obtain ⟨hcnt, hrec, -, hrx, htx, hgap⟩ := hv
  have hv9 : ({ v with txStopBits := 9 } : V14).inv := ⟨hcnt, hrec, show 1 ≤ 9 by decide, hrx, htx, hgap⟩
  have hstop : ({ v with txStopBits := 9 }.tx 0x45).txStopBits = 9 := by
    rw [V14.tx, (V14.transmitBits_queued hv9 _).2.2]
  have htwo : ({ v with txStopBits := Config.adpStopBits }.tx Config.adpE).tx Config.adpC
      = { v with txStopBits := 9 }.transmitBits (charBits 0x45 9 ++ charBits 0x43 9) := by
    rw [V14.transmitBits, List.foldl_append]
    show ({ v with txStopBits := 9 }.tx 0x45).transmitBits
      (charBits 0x43 ({ v with txStopBits := 9 }.tx 0x45).txStopBits) = _
    rw [hstop]
    rfl
  rw [htwo]
  exact V14.transmitBits_queued hv9 _

/-- R105: H behind a 1. -/
def Hdlc.rxOne (h : Hdlc) : Hdlc := (h.rxBit true).1

/-- R105: a 1 ends no frame. -/
theorem Hdlc.rxBit_true_ne_frame (h : Hdlc) (f : List Octet) : (h.rxBit true).2 ≠ .frame f := by
  unfold Hdlc.rxBit
  dsimp only
  rw [if_pos rfl]
  split_ifs <;> nofun

/-- R126, R129: after ADP a bit of the line goes to H, and a 1 does nothing else: an abort is not logged. -/
theorem State.lRxBits_ones_detection (hp : s.l.phase = .detection) (ht : now < s.l.detStart + 750)
    (hadp : s.l.adpSent = true) (hf : s.l.fault = none) (n : Nat) :
    s.lRxBits now (List.replicate n true) = s.setH (Hdlc.rxOne^[n] s.h) := by
  induction n generalizing s with
  | zero => rfl
  | succ n ih =>
    have hbit : s.lRxBit true now = s.setH s.h.rxOne := by
      simp only [State.lRxBit, checkDetectionTimer_of_lt (show now < s.l.detStart + Config.t400 from ht), hp, hadp,
        if_true, State.hBit, State.onHdlc, State.setH_l]
      split
      · exact absurd ‹_› (s.h.rxBit_true_ne_frame _)
      · rfl
    rw [List.replicate_succ, State.lRxBits, hbit, if_neg (by simp [hf])]
    exact ih (s := s.setH s.h.rxOne) hp ht hadp hf

/-- R105: H.RXBIT of several 1s, as far as H is concerned. -/
theorem execAll_hRxbit_ones (hw : s.written.h = true) (n : Nat) :
    ∃ u rs, execAll (List.replicate n (.hRxbit true)) s = some (u, rs) ∧ u.h = Hdlc.rxOne^[n] s.h := by
  induction n generalizing s with
  | zero => exact ⟨s, [], rfl, rfl⟩
  | succ n ih =>
    obtain ⟨t, ht, hth, htw⟩ : ∃ t, exec (.hRxbit true) s = .next t ∧ t.h = s.h.rxOne ∧ t.written = s.written := by
      simp only [exec, execHRxbit, whenWritten, hw, if_true, Hdlc.rxOne]
      generalize s.h.rxBit true = r
      obtain ⟨k, ret⟩ := r
      cases ret with
      | none | frame | abort => exact ⟨_, rfl, rfl, rfl⟩
    obtain ⟨u, rs, hu, huh⟩ := ih (s := t) (by rw [htw]; exact hw)
    refine ⟨u, t.result :: rs, ?_, by rw [huh, hth]; rfl⟩
    rw [List.replicate_succ, execAll_cons ht, hu]
    rfl

/-- R127, R128, R129: the fourth repetition queues the answer at its last data bit; its stop bits go to H. -/
theorem State.lRxBits_char_fourth (hp : s.l.phase = .detection) (ht : now < s.l.detStart + 750)
    (hadp : s.l.adpSent = false) (hf : s.l.fault = none) (hv : s.v.rxState = .idle) (hinv : s.v.inv) {d : Octet}
    (hnext : s.l.continuesOdp d s.v.maxStopBits = true) (h3 : s.l.odpCount = 3) (stops : Nat) :
    ∃ k, { (s.v.dataDone d).takeRun with txStopBits := 9 }.queued k (charBits 0x45 9 ++ charBits 0x43 9)
      ∧ s.lRxBits now (charBits d stops) = { s with
          v := k, h := Hdlc.rxOne^[stops] s.h
          l := { s.l with odpCount := 4, lastOdp := some d, adpSent := true } } := by
  have hq := V14.adp_queued (v := (s.v.dataDone d).takeRun) (V14.dataDone_inv hinv d)
  have hdata := State.lRxBits_data_detection hp ht hadp hf hv d
  rw [State.nextChar, State.setV_l, Lapm.countOdp_of_continues hnext, h3, if_pos (by rfl), State.sendAdp_eq] at hdata
  simp only [State.setL_v, State.setV_v, State.setL_l] at hdata
  generalize V14.tx _ _ = k at hq hdata
  refine ⟨k, hq, ?_⟩
  rw [charBits, ← List.cons_append, State.lRxBits_append _ _ _ _ (by rw [hdata]; exact hf), hdata]
  exact State.lRxBits_ones_detection (by exact hp) (by exact ht) (by rfl) (by exact hf) stops

end Sys2Proof.Machine
end

section
/-!
SUPPORT. The rows of characters on the line (30_encoding.md R53, R66) in phases None and V14, and at the fourth repetition.
-/

namespace Sys2Proof.Machine

variable {s : State} {now : Nat}

/-- R84: V behind a whole character from Idle, the gap counted. -/
theorem V14.stopsDone_dataDone {v : V14} (hv : v.rxState = .idle) (d : Octet) (stops : Nat) :
    (v.dataDone d).stopsDone stops = { v with
      rxCurByte := d, rxBitCount := 8, rxStopBits := stops, maxStopBits := max v.maxStopBits stops
      missGap := BitVec.ofNat 3 (min (v.missGap.toNat + 1) 5) } := by
  rw [← v.nextMissGap_eq, V14.stopsDone, V14.dataDone, ← hv]

/-- R84, R127: the same where the character's run of 1s has been taken. -/
theorem V14.stopsDone_takeRun_dataDone {v : V14} (hv : v.rxState = .idle) (d : Octet) (stops : Nat) :
    (v.dataDone d).takeRun.stopsDone stops = { v with
      rxCurByte := d, rxBitCount := 8, rxStopBits := stops, maxStopBits := stops
      missGap := BitVec.ofNat 3 (min (v.missGap.toNat + 1) 5) } := by
  rw [← v.nextMissGap_eq, V14.stopsDone, V14.takeRun, V14.dataDone, ← hv, Nat.zero_max]

/-- Behind its refusals a pattern that raises no fault answers nothing (R126, log 9). -/
theorem lineArrives_of_noFault (hs : s.pumpsOpen) {bits : List Bool} {t : State} (ht : s.lRxBits now bits = t)
    (hf : t.l.fault = none) : lineArrives bits now s = .next { t with result := .none } := by
  rw [lineArrives_open hs.1 hs.2, ht, hf]
  rfl

/-- R127: a character in phase None, DC1 or not. -/
theorem State.lRxBits_char_none (hp : s.l.phase = .none) (hadp : s.l.adpSent = false) (hf : s.l.fault = none)
    (hv : s.v.rxState = .idle) (d : Octet) {stops : Nat} (hstops : 1 ≤ stops) :
    s.lRxBits now (charBits d stops) = { s with
      v := (s.v.dataDone d).takeRun.stopsDone stops
      l := if d = 0x11 ∨ d = 0x91
        then { s.l with phase := .detection, detStart := now, odpCount := 1, lastOdp := some d }
        else { s.l with phase := .v14 }
      sink := if d = 0x11 ∨ d = 0x91 then s.sink else s.sink ++ [d] } := by
  by_cases hd : d = 0x11 ∨ d = 0x91
  · rw [State.lRxBits_char_none_dc1 hp hadp hf hv ((isDc1_iff d).mpr hd) hstops, if_pos hd, if_pos hd]
  · rw [State.lRxBits_char_none_other hp hadp hf hv (Bool.eq_false_iff.mpr (mt (isDc1_iff d).mp hd)) hstops, if_neg hd,
      if_neg hd]

/-- R66, R131: the two characters of ADP in phase V14. -/
theorem State.lRxBits_adp_v14 (hp : s.l.phase = .v14) (hf : s.l.fault = none) (hv : s.v.rxState = .idle) :
    s.lRxBits now adpBits = { s with
      v := (((s.v.dataDone 0x45).stopsDone 9).dataDone 0x43).stopsDone 9
      l := { s.l with phase := .v14 }, sink := s.sink ++ [0x45, 0x43] } := by
  have hl : ({ s.l with phase := .v14 } : Lapm) = s.l := by rw [← hp]
  have h1 := State.lRxBits_char_v14 (now := now) hp hf hv 0x45 (show 1 ≤ 9 by decide)
  rw [show adpBits = charBits 0x45 9 ++ charBits 0x43 9 from rfl, State.lRxBits_append _ _ _ _ (by rw [h1]; exact hf), h1,
    State.lRxBits_char_v14 (by exact hp) (by exact hf) rfl 0x43 (by decide), hl]
  simp only [List.append_assoc, List.cons_append, List.nil_append]

/-- R66, R127: the two characters of ADP in phase None: the first leads to phase V14. -/
theorem State.lRxBits_adp_none (hp : s.l.phase = .none) (hadp : s.l.adpSent = false) (hf : s.l.fault = none)
    (hv : s.v.rxState = .idle) :
    s.lRxBits now adpBits = { s with
      v := (((s.v.dataDone 0x45).takeRun.stopsDone 9).dataDone 0x43).stopsDone 9
      l := { s.l with phase := .v14 }, sink := s.sink ++ [0x45, 0x43] } := by
  have h1 := State.lRxBits_char_none_other (now := now) hp hadp hf hv (d := 0x45) (by decide) (show 1 ≤ 9 by decide)
  rw [show adpBits = charBits 0x45 9 ++ charBits 0x43 9 from rfl, State.lRxBits_append _ _ _ _ (by rw [h1]; exact hf), h1,
    State.lRxBits_char_v14 rfl (by exact hf) rfl 0x43 (by decide)]
  simp only [List.append_assoc, List.cons_append, List.nil_append]

/-- R84: two characters count two towards the gap. -/
theorem missGap_twice (m : BitVec 3) :
    BitVec.ofNat 3 (min ((BitVec.ofNat 3 (min (m.toNat + 1) 5)).toNat + 1) 5) = BitVec.ofNat 3 (min (m.toNat + 2) 5) := by
  revert m
  decide

/-- R84: V behind the two characters of ADP, whether the run before them was taken or not. -/
theorem V14.adp_received {v : V14} (hv : v.rxState = .idle) :
    (((v.dataDone 0x45).stopsDone 9).dataDone 0x43).stopsDone 9 = { v with
      rxCurByte := 0x43, rxBitCount := 8, rxStopBits := 9, maxStopBits := max v.maxStopBits 9
      missGap := BitVec.ofNat 3 (min (v.missGap.toNat + 2) 5) } := by
  rw [V14.stopsDone_dataDone rfl, V14.stopsDone_dataDone hv, missGap_twice, Nat.max_assoc, Nat.max_self]

/-- Settles O30: every row is the bits of its characters, and `lRxBits_char_v14` and `lRxBits_char_none` say what they do. -/
theorem charactersOutsideDetection : Obligations.CharactersOutsideDetection := by
  intro s d parity stops now hs hv _ hstops received passed first both dc1'
  refine ⟨fun hp => ?_, fun hp hadp => ?_⟩
  · have hchar : ∀ c, lineArrives (charBits c stops) now s = .next (passed c) := fun c => by
      refine (lineArrives_of_noFault hs (State.lRxBits_char_v14 hp hs.2 hv c hstops) hs.2).trans ?_
      rw [V14.stopsDone_dataDone hv]
    refine ⟨hchar d, hchar (dc1 parity), ?_⟩
    refine (lineArrives_of_noFault hs (State.lRxBits_adp_v14 hp hs.2 hv) hs.2).trans ?_
    rw [V14.adp_received hv]
  · have hchar : ∀ c, lineArrives (charBits c stops) now s = .next (first c) := fun c => by
      refine (lineArrives_of_noFault hs (State.lRxBits_char_none hp hadp hs.2 hv c hstops) ?_).trans ?_
      · dsimp only
        split_ifs <;> exact hs.2
      · rw [V14.stopsDone_takeRun_dataDone hv]
    refine ⟨hchar d, hchar (dc1 parity), ?_⟩
    refine (lineArrives_of_noFault hs (State.lRxBits_adp_none hp hadp hs.2 hv) hs.2).trans ?_
    rw [show (s.v.dataDone 0x45).takeRun = s.v.takeRun.dataDone 0x45 from rfl, V14.adp_received (by exact hv)]
    rfl

/-- Settles O33: the row is the bits of its character; `lRxBits_char_fourth` says what they do, `adp_queued` what
V then holds. -/
theorem adpQueuesAnswer : Obligations.AdpQueuesAnswer := by
  intro s i d stops now hs hw hp hadp ht hv hinv _ hd h3 hlast hrun hi
  have hnext : s.l.continuesOdp d s.v.maxStopBits = true :=
    (Lapm.continuesOdp_iff _ _ _).mpr ⟨hd, by rw [h3]; decide, hlast, hrun⟩
  obtain ⟨k, hq, hbits⟩ := State.lRxBits_char_fourth hp ht hadp hs.2 hv hinv hnext h3 stops
  obtain ⟨u, rs, hu, huh⟩ := execAll_hRxbit_ones hw stops
  refine ⟨_, u, rs, (exec_of_encode_line hi).trans (lineArrives_of_noFault hs hbits hs.2), hu, ?_, by rw [huh]⟩
  rw [← V14.nextMissGap_eq]
  exact hq

/-! ### Four repetitions -/

/-- R12, R21: the receiver's registers behind a character are legal, and the line bits that V holds are as before. -/
theorem V14.stopsDone_inv {v : V14} (hv : v.inv) (d : Octet) (stops : Nat) :
    ((v.dataDone d).takeRun.stopsDone stops).inv ∧ ((v.dataDone d).takeRun.stopsDone stops).lineBits = v.lineBits := by
  obtain ⟨hcnt, -, hstop, hrx, htx, hgap⟩ := V14.dataDone_inv hv d
  exact ⟨⟨hcnt, nofun, hstop, hrx, htx, hgap⟩, rfl⟩

/-- What the first repetitions of ODP leave of `s`: V idle behind the last character's stop bits, the line bits that it held,
and L in Detection since `start` with `n` repetitions counted, the last of which was `d` (R127). -/
structure State.OdpCounted (s t : State) (start : Nat) (n : BitVec 3) (d : Octet) (run : Nat) : Prop where
  idle  : t.v.rxState = .idle
  inv   : t.v.inv
  line  : t.v.lineBits = s.v.lineBits
  run   : t.v.maxStopBits = run
  lapm  : t.l = { s.l with phase := .detection, detStart := start, odpCount := n, lastOdp := some d }
  frame : t = { s with v := t.v, l := t.l, result := .none }

section FourOdps

variable {start run stops : Nat} {n : BitVec 3}

/-- R66: the two parities are two characters, both DC1. -/
theorem dc1_isDc1 (parity : Bool) : dc1 parity = 0x11 ∨ dc1 parity = 0x91 := by
  revert parity
  decide

theorem dc1_not_ne (parity : Bool) : dc1 parity ≠ dc1 (!parity) := by
  revert parity
  decide

/-- R127: the first repetition, in phase None. -/
theorem exec_odp_first (hs : s.pumpsOpen) (hp : s.l.phase = .none) (hadp : s.l.adpSent = false)
    (hv : s.v.rxState = .idle) (hinv : s.v.inv) (parity : Bool) (hstops : 1 ≤ stops) :
    ∃ t, exec (.odp parity stops now) s = .next t ∧ s.OdpCounted t now 1 (dc1 parity) stops := by
  have hbits := State.lRxBits_char_none_dc1 (now := now) hp hadp hs.2 hv ((isDc1_iff _).mpr (dc1_isDc1 parity)) hstops
  obtain ⟨hinv', hline⟩ := V14.stopsDone_inv hinv (dc1 parity) stops
  exact ⟨_, lineArrives_of_noFault hs hbits hs.2, rfl, hinv', hline, Nat.zero_max _, rfl, rfl⟩

variable {t : State} {parity : Bool}

/-- R127: a character of the other parity, after a run of 9 or 17 and before expiry, is the next repetition. -/
theorem State.OdpCounted.continues (h : s.OdpCounted t start n (dc1 parity) run) (hrun : run = 9 ∨ run = 17)
    (hn : 1 ≤ n.toNat) : t.l.continuesOdp (dc1 (!parity)) t.v.maxStopBits = true := by
  rw [Lapm.continuesOdp_iff, h.lapm, h.run]
  exact ⟨dc1_isDc1 _, hn, fun e => dc1_not_ne parity (Option.some.inj e), hrun⟩

theorem State.OdpCounted.pumpsOpen (h : s.OdpCounted t start n (dc1 parity) run) (hs : s.pumpsOpen) : t.pumpsOpen := by
  rw [h.frame, h.lapm]
  exact hs

/-- R127: a repetition that is not the fourth. -/
theorem State.OdpCounted.exec_odp (h : s.OdpCounted t start n (dc1 parity) run) (hs : s.pumpsOpen)
    (hadp : s.l.adpSent = false) (hrun : run = 9 ∨ run = 17) (hn : 1 ≤ n.toNat) (hn4 : n + 1 ≠ 4)
    (ht : now < start + 750) (hstops : 1 ≤ stops) :
    ∃ u, exec (.odp (!parity) stops now) t = .next u ∧ s.OdpCounted u start (n + 1) (dc1 (!parity)) stops := by
  have hts := h.pumpsOpen hs
  have hcount := Lapm.countOdp_of_continues (h.continues hrun hn)
  have hbits := State.lRxBits_char_detection (s := t) (now := now) (d := dc1 (!parity)) (by rw [h.lapm])
    (by rw [h.lapm]; exact ht) (by rw [h.lapm]; exact hadp) hts.2 h.idle (by rw [hcount, h.lapm]; exact hn4) hstops
  rw [hcount] at hbits
  obtain ⟨hinv, hline⟩ := V14.stopsDone_inv h.inv (dc1 (!parity)) stops
  refine ⟨_, lineArrives_of_noFault hts hbits hts.2, rfl, hinv, hline.trans h.line, Nat.zero_max _, ?_, ?_⟩
  · dsimp only
    rw [h.lapm]
  · rw [h.frame]

/-- R127, R128: the fourth repetition. -/
theorem State.OdpCounted.exec_odp_fourth (h : s.OdpCounted t start 3 (dc1 parity) run) (hs : s.pumpsOpen)
    (hadp : s.l.adpSent = false) (hrun : run = 9 ∨ run = 17) (ht : now < start + 750) :
    ∃ u, exec (.odp (!parity) stops now) t = .next u
      ∧ u.l = { s.l with
          phase := .detection, detStart := start, odpCount := 4, lastOdp := some (dc1 (!parity)), adpSent := true }
      ∧ u.v.lineBits = s.v.lineBits ++ (charBits 0x45 9 ++ charBits 0x43 9) ∧ u.v.txStopBits = 9
      ∧ u.sink = s.sink ∧ u.trace = s.trace := by
  have hts := h.pumpsOpen hs
  obtain ⟨k, ⟨hline, -, hk⟩, hbits⟩ := State.lRxBits_char_fourth (s := t) (now := now) (by rw [h.lapm])
    (by rw [h.lapm]; exact ht) (by rw [h.lapm]; exact hadp) hts.2 h.idle h.inv (h.continues hrun (by decide))
    (by rw [h.lapm]) stops
  refine ⟨_, lineArrives_of_noFault hts hbits hts.2, ?_, ?_, ?_, ?_, ?_⟩
  · dsimp only
    rw [h.lapm]
  · exact hline.trans (congrArg (· ++ _) h.line)
  · exact congrArg V14.txStopBits hk
  · show t.sink = s.sink
    rw [h.frame]
  · show t.trace = s.trace
    rw [h.frame]

end FourOdps

/-- Settles O32: `OdpCounted` with one, two and three repetitions, then `exec_odp_fourth`. -/
theorem fourOdpsAnswered : Obligations.FourOdpsAnswered := by
  intro s parity n1 n2 n3 n4 t1 t2 t3 t4 hs hp hadp hv hinv hn ht
  simp only [List.forall_mem_cons] at hn ht
  obtain ⟨hn1, hn2, hn3, -, -⟩ := hn
  obtain ⟨ht2, ht3, ht4, -⟩ := ht
  obtain ⟨s1, he1, h1⟩ := exec_odp_first (now := t1) hs hp hadp hv hinv parity (show 1 ≤ n1 by omega)
  obtain ⟨s2, he2, h2⟩ := h1.exec_odp hs hadp hn1 (by decide) (by decide) ht2 (show 1 ≤ n2 by omega)
  obtain ⟨s3, he3, h3⟩ := h2.exec_odp hs hadp hn2 (by decide) (by decide) ht3 (show 1 ≤ n3 by omega)
  rw [Bool.not_not] at he3 h3
  obtain ⟨s4, he4, hl, hrest⟩ := h3.exec_odp_fourth (stops := n4) hs hadp hn3 ht4
  refine ⟨s4, [s1.result, s2.result, s3.result, s4.result], ?_, ?_, hrest⟩
  · rw [execAll_cons he1, execAll_cons he2, execAll_cons he3, execAll_cons he4]
    rfl
  · rw [hl]
    cases parity with
    | false | true => rfl

end Sys2Proof.Machine
end

section
/-!
SUPPORT. Sending a frame (41_hdlc_crc.md R102 to R104): the line bits that H queues are the flags and the stuffed octets of
the frame with its FCS.
-/

namespace Sys2Proof.Machine

variable {h : Hdlc}

/-- R102: H.SENDFLAG queues a flag; of H only the transmitter changes. -/
theorem Hdlc.sendFlag_lineBits (hh : h.inv) :
    h.sendFlag.lineBits = h.lineBits ++ flagBits ∧ h.sendFlag.inv
    ∧ h.sendFlag = { h with
        txBuffer := h.sendFlag.txBuffer, txCur := h.sendFlag.txCur, txCnt := h.sendFlag.txCnt, txOnes := 0 } := by
  obtain ⟨hline, ⟨htx, hrx, -⟩, hframe⟩ := Hdlc.rawBits_lineBits hh flagBits
  have hflag : h.sendFlag = { flagBits.foldl Hdlc.rawBit h with txOnes := 0 } := rfl
  rw [hflag]
  generalize flagBits.foldl Hdlc.rawBit h = k at hline htx hrx hframe ⊢
  exact ⟨hline, ⟨htx, hrx, Nat.zero_le 4⟩, by rw [hframe]⟩

/-- R103: the stuffed bits of a list of bits are queued, given the 1s sent before them. -/
theorem Hdlc.stuffBits_lineBits (hh : h.inv) (bits : List Bool) :
    (bits.foldl Hdlc.stuffBit h).lineBits = h.lineBits ++ stuffBits h.txOnes.toNat bits
    ∧ (bits.foldl Hdlc.stuffBit h).inv
    ∧ bits.foldl Hdlc.stuffBit h = { h with
        txBuffer := (bits.foldl Hdlc.stuffBit h).txBuffer, txCur := (bits.foldl Hdlc.stuffBit h).txCur
        txCnt := (bits.foldl Hdlc.stuffBit h).txCnt, txOnes := (bits.foldl Hdlc.stuffBit h).txOnes } := by
  induction bits generalizing h with
  | nil => exact ⟨by simp [stuffBits], hh, rfl⟩
  | cons b bs ih =>
    obtain ⟨hline, hinv, hframe⟩ := Hdlc.stuffBit_lineBits hh b
    obtain ⟨kline, kinv, kframe⟩ := ih hinv
    have hones : (h.stuffBit b).txOnes = if b = true ∧ h.txOnes ≠ 4 then h.txOnes + 1 else 0 := by rw [hframe]
    refine ⟨?_, kinv, ?_⟩
    · rw [List.foldl_cons, kline, hline, hones, List.append_assoc]
      cases b with
      | false => simp [stuffBits]
      | true =>
        by_cases h4 : h.txOnes = 4
        · simp [stuffBits, h4]
        · have hne : h.txOnes.toNat ≠ 4 := fun e => h4 (BitVec.eq_of_toNat_eq (by simpa using e))
          have hle : h.txOnes.toNat ≤ 4 := hh.2.2
          have hadd : (h.txOnes + 1).toNat = h.txOnes.toNat + 1 := by bv_omega
          rw [if_neg (fun e => h4 e.2), if_pos ⟨rfl, h4⟩, hadd, stuffBits, if_neg hne]
          rfl
    · rw [List.foldl_cons]
      exact kframe.trans (by rw [hframe])

/-- R104: H.SENDFRAME queues the frame with its FCS, stuffed, between two flags; the receiver is as before. -/
theorem Hdlc.sendFrame_queued (hh : h.inv) (f : List Octet) : h.queued (h.sendFrame f) (frameBits (withFcs f)) := by
  obtain ⟨hopen, hinv, hframe⟩ := Hdlc.sendFlag_lineBits hh
  obtain ⟨kline, kinv, kframe⟩ := Hdlc.stuffBits_lineBits hinv (octetsBits (withFcs f))
  obtain ⟨mline, minv, mframe⟩ := Hdlc.sendFlag_lineBits kinv
  have hones : h.sendFlag.txOnes = 0 := by rw [hframe]
  have hne : frameBits (withFcs f) ≠ [] := nofun
  rw [hones] at kline
  unfold Hdlc.sendFrame
  refine ⟨?_, minv, ?_, ?_⟩
  · rw [mline, kline, hopen, frameBits, List.append_assoc, List.append_assoc]
    rfl
  · rw [mframe, if_neg hne]
  · rw [mframe, kframe, hframe]

end Sys2Proof.Machine
end

section
/-!
SUPPORT. XID (42_lapm.md R145 to R147; 30_encoding.md R60): what is parsed, what L learns from it, and the frame that
answers.
-/

namespace Sys2Proof.Machine

variable {p : Params} {s : State}

/-! ### The parse (R145) -/

/-- R60: a parameter's octets are read back, given a turn for each parameter. -/
theorem parseXidParams_octets {ps : List XidParam} (hps : ∀ x ∈ ps, x.pv.length < 256) {fuel : Nat}
    (hf : ps.length ≤ fuel) : parseXidParams fuel (ps.flatMap fun x => xidParamOctets x.pi x.pv) = some ps := by
  induction ps generalizing fuel with
  | nil => rw [List.flatMap_nil, parseXidParams]
  | cons x xs ih =>
    obtain ⟨k, rfl⟩ := Nat.exists_eq_add_of_le' (Nat.one_le_of_lt (Nat.lt_of_lt_of_le (Nat.lt_succ_self _) hf))
    have hlen : (BitVec.ofNat 8 x.pv.length).toNat = x.pv.length :=
      Nat.mod_eq_of_lt (hps x List.mem_cons_self)
    have hrest := ih (fun y hy => hps y (List.mem_cons_of_mem _ hy)) (fuel := k) (by simpa using hf)
    rw [List.flatMap_cons, xidParamOctets, List.cons_append, List.cons_append, parseXidParams, hlen,
      if_pos (by rw [List.length_append]; omega), List.drop_left, List.take_left, hrest]
    rfl

/-- R60: what is read as parameters is their octets, and every value fits its length octet. -/
theorem octets_of_parseXidParams {fuel : Nat} {content : List Octet} {ps : List XidParam}
    (h : parseXidParams fuel content = some ps) :
    content = (ps.flatMap fun x => xidParamOctets x.pi x.pv) ∧ ∀ x ∈ ps, x.pv.length < 256 := by
  induction fuel generalizing content ps with
  | zero =>
    cases content with
    | nil =>
      cases h
      exact ⟨rfl, nofun⟩
    | cons o os => simp [parseXidParams] at h
  | succ k ih =>
    match content, h with
    | [], h =>
      cases h
      exact ⟨rfl, nofun⟩
    | [_], h => cases h
    | pi :: pl :: rest, h =>
      rw [parseXidParams] at h
      split at h
      · next hle =>
        obtain ⟨xs, hxs, rfl⟩ := Option.map_eq_some_iff.mp h
        obtain ⟨hrest, hfit⟩ := ih hxs
        have hlen : (rest.take pl.toNat).length = pl.toNat := by rw [List.length_take]; omega
        refine ⟨?_, List.forall_mem_cons.mpr ⟨by rw [hlen]; exact pl.isLt, hfit⟩⟩
        rw [List.flatMap_cons, ← hrest, xidParamOctets, hlen, BitVec.ofNat_toNat, BitVec.setWidth_eq, List.cons_append,
          List.cons_append, List.take_append_drop]
      · cases h

/-- What a group's content is read as (R145). -/
def XidGroup.parse (gi : Octet) (content : List Octet) : Option XidGroup :=
  if hasXidParams gi then (parseXidParams content.length content).map (XidGroup.params gi) else some (.skipped gi content)

/-- R145: one group, and the groups behind it. -/
theorem parseXidGroups_cons (gi : Octet) {content : List Octet} (hc : content.length < 65536) (rest : List Octet)
    (fuel : Nat) :
    parseXidGroups (fuel + 1) (xidGroupOctets gi content ++ rest) =
      (XidGroup.parse gi content).bind fun g => (parseXidGroups fuel rest).map (g :: ·) := by
  have hlen := natOfOctetsBE_octets2BE hc
  unfold octets2BE at hlen
  simp only [xidGroupOctets, octets2BE, List.cons_append, List.nil_append, parseXidGroups, hlen]
  rw [if_pos (by rw [List.length_append]; omega), List.drop_left, List.take_left]
  rfl

/-- R145, log 12: the field that holds one group. -/
theorem parseXid_group (gi : Octet) {content : List Octet} (hc : content.length < 65536) :
    parseXid (xidInfoOfGroup gi content) = (XidGroup.parse gi content).map fun g => [g] := by
  have hlen : (xidGroupOctets gi content).length = content.length + 2 + 1 := by
    simp [xidGroupOctets, octets2BE]
  have hone := parseXidGroups_cons gi hc [] (content.length + 2)
  rw [List.append_nil] at hone
  rw [xidInfoOfGroup, parseXid, if_pos rfl, hlen, hone]
  cases XidGroup.parse gi content with
  | none | some => rfl

/-- R60, R145: a group 0x80 or 0xF0 of parameters that fit. -/
theorem XidGroup.parse_params {gi : Octet} {ps : List XidParam} (h : (XidGroup.params gi ps).fits = true) :
    (ps.flatMap fun x => xidParamOctets x.pi x.pv).length < 65536
    ∧ XidGroup.parse gi (ps.flatMap fun x => xidParamOctets x.pi x.pv) = some (.params gi ps) := by
  simp only [XidGroup.fits, Bool.and_eq_true, List.all_eq_true, decide_eq_true_eq] at h
  obtain ⟨⟨hgi, hps⟩, hlen⟩ := h
  have hturns : ps.length ≤ (ps.flatMap fun x => xidParamOctets x.pi x.pv).length := by
    rw [List.length_flatMap]
    refine (Nat.le_of_eq (by simp)).trans (List.sum_le_sum (f := fun _ => 1) fun x _ => ?_)
    simp [xidParamOctets]
  refine ⟨hlen, ?_⟩
  rw [XidGroup.parse, hasXidParams, if_pos hgi, parseXidParams_octets hps hturns, Option.map_some]

/-- R145: a group's content that is no sequence of parameters does not parse. -/
theorem XidGroup.parse_eq_none {gi : Octet} (hgi : hasXidParams gi = true) {content : List Octet}
    (hc : content.length < 65536)
    (h : ∀ qs : List XidParam, (XidGroup.params Config.xidGidPublic qs).fits = true →
      content ≠ qs.flatMap fun x => xidParamOctets x.pi x.pv) : XidGroup.parse gi content = none := by
  rw [XidGroup.parse, if_pos hgi, Option.map_eq_none_iff, Option.eq_none_iff_forall_ne_some]
  intro qs hqs
  obtain ⟨hcontent, hfit⟩ := octets_of_parseXidParams hqs
  refine h qs ?_ hcontent
  simp only [XidGroup.fits, Bool.and_eq_true, List.all_eq_true, decide_eq_true_eq]
  exact ⟨⟨by decide, hfit⟩, hcontent ▸ hc⟩

/-! ### What L learns (R146) -/

/-- The value of the last parameter `pid` of a list of parameters, if there is one (R146). -/
def lastValue (pid : Octet) (ps : List XidParam) : Option Nat :=
  (ps.filter fun x => x.pi = pid).getLast?.map fun x => natOfOctetsBE x.pv

/-- The parameters of a public group; none of any other (R146). -/
def XidGroup.publicParams : XidGroup → List XidParam
  | .params gi ps => if gi = Config.xidGidPublic then ps else []
  | .skipped _ _ => []

theorem lastPublic_eq (pid : Octet) (gs : List XidGroup) :
    lastPublic pid gs = lastValue pid (gs.flatMap XidGroup.publicParams) := rfl

theorem lastValue_append (pid : Octet) (ps qs : List XidParam) :
    lastValue pid (ps ++ qs) = (lastValue pid qs).or (lastValue pid ps) := by
  rw [lastValue, List.filter_append, List.getLast?_append]
  unfold lastValue
  cases (qs.filter fun x => x.pi = pid).getLast? with
  | none | some => simp

theorem lastValue_singleton (pid : Octet) (x : XidParam) :
    lastValue pid [x] = if x.pi = pid then some (natOfOctetsBE x.pv) else none := by
  by_cases h : x.pi = pid
  · simp [lastValue, h]
  · simp [lastValue, h]

/-- L after the public parameters `ps`: the last size and the last window are learned (R146). -/
def Lapm.learn (p : Params) (l : Lapm) (ps : List XidParam) : Lapm :=
  { l with
    txMaxSize := ((lastValue p.xidPidTxsize ps).map (· / p.xidLenDiv)).getD l.txMaxSize
    txWindow := (lastValue p.xidPidWindow ps).getD l.txWindow }

theorem Lapm.learn_append (p : Params) (l : Lapm) (ps qs : List XidParam) :
    l.learn p (ps ++ qs) = (l.learn p ps).learn p qs := by
  simp only [Lapm.learn, lastValue_append]
  cases lastValue p.xidPidTxsize qs with
  | none | some =>
    cases lastValue p.xidPidWindow qs with
    | none | some => simp

theorem Lapm.learn_nil (p : Params) (l : Lapm) : l.learn p [] = l := rfl

/-- R146: one parameter is unknown or not. -/
theorem XidGroup.unknowns_singleton (p : Params) (gi : Octet) (x : XidParam) :
    (XidGroup.params gi [x]).unknowns p = if x.pi ∈ knownParams p gi then [] else [.xidUnknownParam] := by
  by_cases h : x.pi ∈ knownParams p gi
  · simp [XidGroup.unknowns, h]
  · simp [XidGroup.unknowns, h]

/-- R146: the effect of one parameter of the public group: the size, the window, or nothing is learned. -/
theorem xidParamEffect_public (hp : p.wf = true) (l : Lapm) (x : XidParam) :
    xidParamEffect p Config.xidGidPublic l x =
      (l.learn p [x], (XidGroup.params Config.xidGidPublic [x]).unknowns p) := by
  have hne := Params.wf_xidPids hp
  rw [XidGroup.unknowns_singleton]
  unfold xidParamEffect Lapm.learn
  simp only [lastValue_singleton, knownParams, if_true]
  by_cases hsize : x.pi = p.xidPidTxsize
  · simp [hsize, hne]
  · by_cases hwindow : x.pi = p.xidPidWindow
    · simp [hwindow, hne.symm]
    · by_cases hknown : x.pi ∈ Config.xidPublicKnown
      · simp [hsize, hwindow, hknown]
      · simp [hsize, hwindow, hknown]

/-- R146, R147: the compression request is known in group 0xF0. -/
theorem compreq_mem_knownParams (p : Params) : p.xidPidCompreq ∈ knownParams p Config.xidGidPrivate :=
  List.mem_cons_self (l := Config.xidPrivateKnown)

/-- R146: a parameter outside the public group teaches nothing. -/
theorem xidParamEffect_private (p : Params) {gi : Octet} (hgi : gi ≠ Config.xidGidPublic) (l : Lapm) (x : XidParam) :
    xidParamEffect p gi l x = (l, (XidGroup.params gi [x]).unknowns p) := by
  rw [XidGroup.unknowns_singleton]
  unfold xidParamEffect
  simp only [knownParams, if_neg hgi]
  by_cases hreq : x.pi = p.xidPidCompreq
  · simp [hreq]
  · by_cases hknown : x.pi ∈ Config.xidPrivateKnown
    · simp [hreq, hknown]
    · simp [hreq, hknown]

/-- R146: the unknown parameters of a group are logged in order. -/
theorem XidGroup.unknowns_cons (p : Params) (gi : Octet) (x : XidParam) (xs : List XidParam) :
    (XidGroup.params gi (x :: xs)).unknowns p
      = (XidGroup.params gi [x]).unknowns p ++ (XidGroup.params gi xs).unknowns p := by
  simp only [XidGroup.unknowns, ← List.map_append, ← List.filter_append, List.singleton_append]

/-- R145, R146: the effect of a group. -/
theorem xidGroupEffect_eq (hp : p.wf = true) (l : Lapm) (g : XidGroup) :
    xidGroupEffect p l g = (l.learn p g.publicParams, g.unknowns p) := by
  cases g with
  | skipped gi content => rfl
  | params gi ps =>
    unfold xidGroupEffect
    dsimp only
    induction ps generalizing l with
    | nil =>
      unfold XidGroup.publicParams
      dsimp only
      rw [ite_self]
      rfl
    | cons x xs ih =>
      rw [xidParamsEffect, ih, XidGroup.unknowns_cons]
      by_cases hgi : gi = Config.xidGidPublic
      · subst hgi
        rw [xidParamEffect_public hp]
        simp only [XidGroup.publicParams, if_true]
        rw [← Lapm.learn_append, List.singleton_append]
      · rw [xidParamEffect_private p hgi]
        simp only [XidGroup.publicParams, if_neg hgi]

/-- R146: the effects of the groups, in order. -/
theorem xidEffect_eq (hp : p.wf = true) (l : Lapm) (gs : List XidGroup) :
    xidEffect p l gs = (l.learn p (gs.flatMap XidGroup.publicParams), gs.flatMap (XidGroup.unknowns p)) := by
  induction gs generalizing l with
  | nil => rfl
  | cons g gs ih =>
    rw [xidEffect, xidGroupEffect_eq hp, ih, List.flatMap_cons, List.flatMap_cons, Lapm.learn_append]

/-! ### The response (R147) -/

/-- R147: the response's groups are the received ones, the compression request's value zeroed. -/
theorem xidGroupResponse_eq (p : Params) (g : XidGroup) : xidGroupResponse p g = (g.answered p).octets := by
  cases g with
  | skipped gi content => rfl
  | params gi ps =>
    unfold xidGroupResponse XidGroup.answered XidGroup.octets
    dsimp only
    rw [List.flatMap_map]
    congr 2
    funext x
    unfold xidParamResponse
    split
    · rfl
    · rfl

/-! ### An XID frame arrives -/

/-- R106: a frame carries its own FCS. -/
theorem checkFcs_withFcs (f : List Octet) : checkFcs (withFcs f) = true := by
  have hlen : (withFcs f).length = f.length + 2 := by simp [withFcs, fcsOctets]
  have hlo : (withFcs f).getD f.length 0 = (crc16 f).extractLsb' 0 8 := by simp [withFcs, fcsOctets]
  have hhi : (withFcs f).getD (f.length + 1) 0 = (crc16 f).extractLsb' 8 8 := by simp [withFcs, fcsOctets]
  rw [checkFcs, hlen, Nat.add_sub_cancel, show f.length + 2 - 1 = f.length + 1 from rfl, hlo, hhi, withFcs, List.take_left,
    decide_eq_true_eq]
  have hlt := (crc16 f).isLt
  simp only [BitVec.extractLsb'_toNat, Nat.shiftRight_eq_div_pow]
  omega

/-- R126, R132: in Establish and Connected a frame is handled, and the detection timer does not matter. -/
theorem State.lFrame_of_handlesFrames (h : s.handlesFrames) (f : List Octet) (now : Nat) :
    s.lFrame f now = s.handleFrame f now := by
  unfold State.lFrame
  rcases h with h | h
  · simp only [checkDetectionTimer_of_ne (show s.l.phase ≠ .detection by simp [h]), State.readsHdlc, State.onHdlc, h,
      if_true]
  · simp only [checkDetectionTimer_of_ne (show s.l.phase ≠ .detection by simp [h]), State.readsHdlc, State.onHdlc, h,
      if_true]

/-- R132: a U frame is handled by its class, whatever information it carries. -/
theorem State.handleFrame_u {code : Octet} (hc : Params.isUCode code = true) (addr : Octet) (pf : Bool)
    (info : List Octet) (now : Nat) :
    s.handleFrame (uFrameOctets addr code pf info) now = s.handleU (uFrameOctets addr code pf info) now := by
  obtain ⟨h0, h1, -, -⟩ := uOctet_fields hc pf
  have hctl : (uFrameOctets addr code pf info).getD 1 0 = uOctet code pf := rfl
  have hlen : ¬ (uFrameOctets addr code pf info).length < 4 := by simp [uFrameOctets, withFcs, fcsOctets]
  have hfcs : checkFcs (uFrameOctets addr code pf info) = true := checkFcs_withFcs _
  simp only [State.handleFrame, if_neg hlen, hfcs, hctl, h0, h1, Bool.not_true, Bool.false_eq_true, Bool.true_eq_false,
    if_false]

/-- R58, R132: the XID code is neither SABME's nor DISC's. -/
theorem State.handleU_xid (hp : s.cfg.wf = true) (addr : Octet) (pf : Bool) (info : List Octet) (now : Nat) :
    s.handleU (uFrameOctets addr s.cfg.ctlXid pf info) now = s.handleXid (uFrameOctets addr s.cfg.ctlXid pf info) now := by
  obtain ⟨hall, hnodup⟩ := Params.wf_uCodes hp
  have hcode := (uOctet_fields (hall s.cfg.ctlXid (by simp [Params.uCodes])) pf).2.2.1
  have hctl : (uFrameOctets addr s.cfg.ctlXid pf info).getD 1 0 = uOctet s.cfg.ctlXid pf := rfl
  simp only [Params.uCodes, List.nodup_cons, List.mem_cons, List.not_mem_nil, or_false, not_or] at hnodup
  obtain ⟨⟨-, -, hsabme⟩, ⟨-, hdisc⟩, -⟩ := hnodup
  simp only [State.handleU, hctl, hcode, if_neg (Ne.symm hsabme), if_neg (Ne.symm hdisc), if_true]

/-- R132, R145: an XID frame in Establish or Connected, behind its refusals. -/
theorem xidArrives_open (hs : s.pumpsOpen) (hh : s.handlesFrames) (hp : s.cfg.wf = true) (addr : Octet) (pf : Bool)
    (info : List Octet) (now : Nat) {t : State}
    (ht : s.handleXid (uFrameOctets addr s.cfg.ctlXid pf info) now = t) (hf : t.l.fault = none) :
    xidArrives addr pf info now s = .next { t with result := .none } := by
  have hcode := (Params.wf_uCodes hp).1 s.cfg.ctlXid (by simp [Params.uCodes])
  rw [xidArrives, frameArrives_open hs.1 hs.2, State.lFrame_of_handlesFrames hh, State.handleFrame_u hcode,
    State.handleU_xid hp, ht, hf]
  rfl

/-- R54: the information field of a U frame is what stands between its control octet and its FCS. -/
theorem uFrameOctets_info (addr code : Octet) (pf : Bool) (info : List Octet) :
    ((uFrameOctets addr code pf info).drop 2).take ((uFrameOctets addr code pf info).length - 4) = info := by
  have hlen : (uFrameOctets addr code pf info).length - 4 = info.length := by
    simp [uFrameOctets, withFcs, fcsOctets]
  rw [hlen]
  exact List.take_left

/-- R145: a field that does not parse is malformed. -/
theorem xidArrives_malformed (hs : s.pumpsOpen) (hh : s.handlesFrames) (hp : s.cfg.wf = true) (addr : Octet) (pf : Bool)
    {info : List Octet} (hi : parseXid info = none) (now : Nat) :
    xidArrives addr pf info now s = .next { s with trace := s.trace ++ [.xidMalformed], result := .none } := by
  refine xidArrives_open hs hh hp addr pf info now (t := s.log [.xidMalformed]) ?_ hs.2
  rw [State.handleXid, uFrameOctets_info, hi]

/-- R145 to R147: what L does with a field that parses. -/
theorem State.handleXid_parsed (hp : s.cfg.wf = true) (addr : Octet) (pf : Bool) {info : List Octet} {gs : List XidGroup}
    (hi : parseXid info = some gs) (now : Nat) :
    s.handleXid (uFrameOctets addr s.cfg.ctlXid pf info) now = { s with
      h := s.h.sendFrame (addr :: uOctet s.cfg.ctlXid pf :: Config.xidFi :: gs.flatMap fun g => (g.answered s.cfg).octets)
      l := { s.l.learn s.cfg (gs.flatMap XidGroup.publicParams) with inactStart := now }
      trace := s.trace ++ gs.flatMap (XidGroup.unknowns s.cfg) } := by
  have hresponse : xidResponse s.cfg gs = Config.xidFi :: gs.flatMap fun g => (g.answered s.cfg).octets := by
    rw [xidResponse]
    congr 2
    funext g
    exact xidGroupResponse_eq s.cfg g
  rw [State.handleXid, uFrameOctets_info, hi]
  dsimp only
  rw [xidEffect_eq hp, State.lSend_eq, hresponse]
  rfl

/-- R145 to R147: a field that parses is learned from and answered. -/
theorem xidArrives_parsed (hs : s.pumpsOpen) (hh : s.handlesFrames) (hp : s.cfg.wf = true) (hinv : s.h.inv) (addr : Octet)
    (pf : Bool) {info : List Octet} {gs : List XidGroup} (hi : parseXid info = some gs) (now : Nat) :
    ∃ t, xidArrives addr pf info now s = .next t ∧ s.afterXid addr pf gs now t := by
  have ht := State.handleXid_parsed hp addr pf hi now
  have hq := Hdlc.sendFrame_queued hinv
    (addr :: uOctet s.cfg.ctlXid pf :: Config.xidFi :: gs.flatMap fun g => (g.answered s.cfg).octets)
  generalize Hdlc.sendFrame _ _ = k at ht hq
  refine ⟨_, xidArrives_open hs hh hp addr pf info now ht hs.2, hq, ?_⟩
  rw [lastPublic_eq, lastPublic_eq]
  rfl

/-! ### The items (log 12) -/

/-- R60, log 12: a group whose content parses. -/
theorem xidGroup_arrives (hs : s.pumpsOpen) (hh : s.handlesFrames) (hp : s.cfg.wf = true) (hinv : s.h.inv) (addr : Octet)
    (pf : Bool) {gi : Octet} {content : List Octet} {g : XidGroup} (hc : content.length < 65536)
    (hg : XidGroup.parse gi content = some g) (now : Nat) :
    ∃ t, xidArrives addr pf (xidInfoOfGroup gi content) now s = .next t ∧ s.afterXid addr pf [g] now t :=
  xidArrives_parsed hs hh hp hinv addr pf (by rw [parseXid_group gi hc, hg]; rfl) now

/-- R60: one parameter, in its group. -/
theorem XidGroup.parse_param {gi : Octet} (hgi : hasXidParams gi = true) (pi : Octet) {pv : List Octet}
    (hpv : pv.length < 256) :
    (xidParamOctets pi pv).length < 65536
    ∧ XidGroup.parse gi (xidParamOctets pi pv) = some (.params gi [⟨pi, pv⟩]) := by
  have hlen : (xidParamOctets pi pv).length < 65536 := by
    simp only [xidParamOctets, List.length_cons]
    omega
  have h := XidGroup.parse_params (gi := gi) (ps := [⟨pi, pv⟩])
  simp only [List.flatMap_cons, List.flatMap_nil, List.append_nil] at h
  refine h ?_
  simp only [XidGroup.fits, List.flatMap_cons, List.flatMap_nil, List.append_nil, List.all_cons, List.all_nil, hpv, hlen,
    decide_true, Bool.and_true]
  exact hgi

/-- Settles O25: each item is a field of one group or none (`xidGroup_arrives`), read back by `parse_params`, `parse_param` or
as skipped content; `parse_eq_none` finds the malformed ones. -/
theorem xidItemsEffect : Obligations.XidItemsEffect := by
  intro s addr pf content pv ps now hs hh hp hinv hc hpv hfits
  have hprivate : (XidGroup.params Config.xidGidPrivate ps).fits = true := hfits
  obtain ⟨hlen, hparse⟩ := XidGroup.parse_params hfits
  obtain ⟨-, hparse'⟩ := XidGroup.parse_params hprivate
  have harrives : ∀ {gi : Octet} {content : List Octet} {g : XidGroup}, content.length < 65536 →
      XidGroup.parse gi content = some g →
      ∃ t, xidArrives addr pf (xidInfoOfGroup gi content) now s = .next t ∧ s.afterXid addr pf [g] now t :=
    fun hc hg => xidGroup_arrives hs hh hp hinv addr pf hc hg now
  refine ⟨xidArrives_parsed hs hh hp hinv addr pf rfl now, harrives hlen hparse, harrives hlen hparse', ?_,
    harrives hc rfl, ?_, ?_, ?_⟩
  · intro hbad i hi
    have hnone : ∀ gi, hasXidParams gi = true → parseXid (xidInfoOfGroup gi content) = none := fun gi hgi => by
      rw [parseXid_group gi hc, XidGroup.parse_eq_none hgi hc hbad]
      rfl
    rcases List.mem_pair.mp hi with rfl | rfl
    · exact xidArrives_malformed hs hh hp addr pf (hnone _ rfl) now
    · exact xidArrives_malformed hs hh hp addr pf (hnone _ rfl) now
  · obtain ⟨hone, hparam⟩ := XidGroup.parse_param (gi := Config.xidGidPublic) rfl s.cfg.xidPidTxsize hpv
    obtain ⟨t, ht, hq, hafter⟩ := harrives hone hparam
    refine ⟨t, ht, ⟨hq, hafter⟩, ?_⟩
    rw [hafter]
    simp [lastPublic]
  · obtain ⟨hone, hparam⟩ := XidGroup.parse_param (gi := Config.xidGidPublic) rfl s.cfg.xidPidWindow hpv
    obtain ⟨t, ht, hq, hafter⟩ := harrives hone hparam
    refine ⟨t, ht, ⟨hq, hafter⟩, ?_⟩
    rw [hafter]
    simp [lastPublic]
  · obtain ⟨hone, hparam⟩ := XidGroup.parse_param (gi := Config.xidGidPrivate) rfl s.cfg.xidPidCompreq hpv
    obtain ⟨t, ht, hq, hafter⟩ := harrives hone hparam
    have hlearned : ∀ pid, lastPublic pid [.params Config.xidGidPrivate [⟨s.cfg.xidPidCompreq, pv⟩]] =
        none := fun _ => rfl
    have hknown : [XidGroup.params Config.xidGidPrivate [⟨s.cfg.xidPidCompreq, pv⟩]].flatMap
        (XidGroup.unknowns s.cfg) = [] := by
      rw [List.flatMap_singleton, XidGroup.unknowns_singleton, if_pos (compreq_mem_knownParams s.cfg)]
    refine ⟨t, ht, ?_, hafter.trans ?_⟩
    · simpa [XidGroup.answered, XidGroup.octets] using hq
    · rw [hlearned, hlearned, hknown, List.append_nil]
      rfl

end Sys2Proof.Machine
end

section
/-!
SUPPORT. Operations of one unit behind the refusals of R233 and R262, the POPs of the four queues (R87, R108, R199, R224), and
the RESETs (70_reset_and_hazards.md R260, R261).
-/

namespace Sys2Proof.Machine

variable {s : State}

/-! ### Outcomes -/

/-- R262: an operation of a written unit. -/
theorem whenWritten_of_written {w : Bool} (hw : w = true) (k : Out) : whenWritten w s k = k := by
  rw [whenWritten, if_pos hw]

/-- R87: a POP of a written unit answers the head and leaves the rest. -/
theorem pop_cons {w : Bool} (hw : w = true) {queue rest : List Octet} {b : Octet} (hq : queue = b :: rest)
    (put : List Octet → State) :
    whenWritten w s (popQueue queue s put) = .next ((put rest).answer (.octet b)) := by
  rw [whenWritten_of_written hw]
  exact popQueue_next_iff.mpr (.inr ⟨b, rest, hq, rfl⟩)

/-- R87, R233: a POP of an empty queue is refused. -/
theorem pop_nil {w : Bool} (hw : w = true) {queue : List Octet} (hq : queue = []) (put : List Octet → State) :
    whenWritten w s (popQueue queue s put) = .next (s.answer (.refused .emptyQueue)) := by
  rw [whenWritten_of_written hw]
  exact popQueue_next_iff.mpr (.inl ⟨hq, rfl⟩)

/-- Settles O8: the four POPs are `popQueue` of their queues, behind no fault test. -/
theorem popTakesHead : Obligations.PopTakesHead := by
  intro s b q
  exact ⟨fun hw => ⟨fun hq => pop_cons hw hq _, fun hq => pop_nil hw hq _⟩,
    fun hw => ⟨fun hq => pop_cons hw hq _, fun hq => pop_nil hw hq _⟩,
    fun hw => ⟨fun hq => pop_cons hw hq _, fun hq => pop_nil hw hq _⟩,
    fun hw => ⟨fun hq => pop_cons hw hq _, fun hq => pop_nil hw hq _⟩⟩

/-! ### RESET -/

/-- R173: after DictReset the root of each octet stands at its index. -/
theorem V42Base.atReset_nodeAt_root (b : Octet) :
    V42Base.atReset.nodeAt (3 + b.toNat) = { character := b, parent := .root, children := [] } := by
  have hroot : Config.cwReserved ≤ 3 + b.toNat ∧ 3 + b.toNat < Config.cwFirst := by
    have := b.isLt
    simp only [Config.cwReserved, Config.cwFirst]
    omega
  have hchar : BitVec.ofNat 8 (3 + b.toNat - Config.cwReserved) = b := by simp [Config.cwReserved]
  show Node.atReset (3 + b.toNat) = _
  rw [Node.atReset, if_pos hroot, hchar]

/-- R173: after DictReset every other node is free. -/
theorem V42Base.atReset_nodeAt_free {k : Nat} (hk : k < 3 ∨ 259 ≤ k) :
    V42Base.atReset.nodeAt k = { character := 0, parent := .free, children := [] } :=
  if_neg fun ⟨hlo, hhi⟩ => by
    simp only [Config.cwReserved, Config.cwFirst] at hlo hhi
    omega

/-- Settles O15: each RESET is one update by the unit's reset values; the dictionary is read by `atReset_nodeAt_root` and
`atReset_nodeAt_free`. -/
theorem resetsRestore : Obligations.ResetsRestore := fun _ =>
  ⟨rfl, rfl, rfl, rfl, rfl, rfl, rfl, rfl, V42Base.atReset_nodeAt_root, fun _ => V42Base.atReset_nodeAt_free⟩

end Sys2Proof.Machine
end

section
/-!
SUPPORT. The host operations of unit V (40_v14_framer.md R80 to R86), each behind the refusal of R262: what they queue, what a
received bit does in each state of the receiver, and what several bits one after another do.
-/

namespace Sys2Proof.Machine

variable {s : State} {v w : V14}

/-! ### The transmitter -/

/-- R31: there are eight line bits for each queued octet, and those pending. -/
theorem V14.lineBits_length (v : V14) : v.lineBits.length = 8 * v.txQueue.length + v.txBitCount.toNat := by
  have hlt : v.txBitCount.toNat < 8 := v.txBitCount.isLt
  rw [V14.lineBits, List.length_append, octetsBits_length, List.length_take, octetBits_length]
  omega

/-- R81: a bit behind the seventh pending one completes the octet. -/
theorem V14.txBitCount_transmitBit_seven (h : v.txBitCount = 7) (b : Bool) : (v.transmitBit b).txBitCount = 0 := by
  simp only [V14.transmitBit, if_pos h]

/-- R81: any other bit is one more. -/
theorem V14.txBitCount_transmitBit_of_ne (h : v.txBitCount ≠ 7) (b : Bool) :
    (v.transmitBit b).txBitCount = v.txBitCount + 1 := by
  simp only [V14.transmitBit, if_neg h]

/-- R83: with turns enough, the loop transmits as many 1s as the octet in part lacks. -/
theorem V14.fillOnes_eq (fuel : Nat) (hne : v.txBitCount ≠ 0) (hfuel : 8 - v.txBitCount.toNat ≤ fuel) :
    V14.fillOnes fuel v = v.transmitBits (List.replicate (8 - v.txBitCount.toNat) true) := by
  have hlt : v.txBitCount.toNat < 8 := v.txBitCount.isLt
  induction fuel generalizing v with
  | zero => omega
  | succ n ih =>
    rw [V14.fillOnes, if_neg hne]
    by_cases h7 : v.txBitCount = 7
    · have hdone : V14.fillOnes n (v.transmitBit true) = v.transmitBit true := by
        cases n with
        | zero => rfl
        | succ m => rw [V14.fillOnes, if_pos (V14.txBitCount_transmitBit_seven h7 true)]
      rw [hdone, h7]
      rfl
    · have hcnt := V14.txBitCount_transmitBit_of_ne h7 true
      have hnat : (v.transmitBit true).txBitCount.toNat = v.txBitCount.toNat + 1 := by
        rw [hcnt]
        bv_omega
      have hones : 8 - v.txBitCount.toNat = 8 - (v.transmitBit true).txBitCount.toNat + 1 := by omega
      rw [ih (by rw [hcnt]; bv_omega) (by omega) (by omega), hones, List.replicate_succ]
      rfl

/-- R83: V14.FLUSH transmits the 1s that complete the octet in part, eight where none is in part. -/
theorem V14.flush_eq (v : V14) : v.flush = v.transmitBits (List.replicate (8 - v.txBitCount.toNat) true) := by
  unfold V14.flush
  split
  · exact V14.fillOnes_eq 8 ‹_› (Nat.sub_le _ _)
  · next h =>
    rw [not_not.mp h]
    rfl

/-- R83: V14.FLUSH queues 1s up to the end of one octet. -/
theorem V14.flush_queued (hv : v.inv) :
    v.queued v.flush (List.replicate (8 - v.txBitCount.toNat) true) ∧ v.flush.txBitCount = 0
    ∧ v.flush.txQueue.length = v.txQueue.length + 1 := by
  have hq := V14.transmitBits_queued hv (List.replicate (8 - v.txBitCount.toNat) true)
  rw [← V14.flush_eq] at hq
  have hlen := congrArg List.length hq.1
  rw [List.length_append, V14.lineBits_length, V14.lineBits_length, List.length_replicate] at hlen
  have hlt : v.txBitCount.toNat < 8 := v.txBitCount.isLt
  have hlt' : v.flush.txBitCount.toNat < 8 := v.flush.txBitCount.isLt
  exact ⟨hq, BitVec.eq_of_toNat_eq (by show v.flush.txBitCount.toNat = 0; omega), by omega⟩

/-- R82: V14.TX queues its character at the current stop bit count. -/
theorem V14.tx_queued (hv : v.inv) (b : Octet) : v.queued (v.tx b) (charBits b v.txStopBits) :=
  V14.transmitBits_queued hv _

/-- R10: an operation of V without an answer. -/
theorem done_setV (s : State) (v : V14) : done (s.setV v) .none = .next { s with v := v, result := .none } := rfl

theorem exec_v14Tx (hw : s.written.v = true) (b : Octet) :
    exec (.v14Tx b) s = .next { s with v := s.v.tx b, result := .none } :=
  (whenWritten_of_written hw _).trans (done_setV s _)

theorem exec_v14Flush (hw : s.written.v = true) :
    exec .v14Flush s = .next { s with v := s.v.flush, result := .none } :=
  (whenWritten_of_written hw _).trans (done_setV s _)

/-- R53: a character is the start bit, the data bits, bit 0 first, and the stop bits. -/
theorem charBits_eq (d : Octet) (stops : Nat) :
    charBits d stops = [false] ++ (List.range 8).map d.getLsbD ++ List.replicate stops true := rfl

/-- Settles O5: `tx_queued` and `flush_queued`. -/
theorem v14TxAndFlushQueue : Obligations.V14TxAndFlushQueue := by
  intro s b hw hv
  have htx := V14.tx_queued hv b
  have hflush := V14.flush_queued hv
  rw [charBits_eq] at htx
  rw [exec_v14Tx hw, exec_v14Flush hw]
  generalize s.v.tx b = vtx at htx ⊢
  generalize s.v.flush = vflush at hflush ⊢
  exact ⟨⟨_, rfl, rfl, htx⟩, ⟨_, rfl, rfl, hflush⟩⟩

/-! ### The stop bit counts -/

theorem exec_v14Setsb (hw : s.written.v = true) {n : Nat} (hn : n ≠ 0) :
    exec (.v14Setsb n) s = .next { s with v := { s.v with txStopBits := n }, result := .none } :=
  (whenWritten_of_written hw _).trans (if_neg hn)

/-- Settles O4: the branches of R80, and R86. -/
theorem v14SetsbAndRsb : Obligations.V14SetsbAndRsb := by
  intro s n hw
  exact ⟨exec_v14Setsb hw, fun hn => (whenWritten_of_written hw _).trans (if_pos hn), whenWritten_of_written hw _⟩

/-! ### One received bit -/

theorem V14.rxBit_idle_one (h : v.rxState = .idle) : v.rxBit true =
    ⟨{ v with rxStopBits := v.rxStopBits + 1, maxStopBits := max v.maxStopBits (v.rxStopBits + 1) }, none, []⟩ := by
  simp only [V14.rxBit, h, if_true]

theorem V14.rxBit_idle_zero (h : v.rxState = .idle) : v.rxBit false = ⟨v.startChar, none, []⟩ := by
  simp only [V14.rxBit, h, Bool.false_eq_true, if_false]

theorem V14.rxBit_stop_one (h : v.rxState = .stopBit) : v.rxBit true =
    ⟨{ v with rxStopBits := 1, maxStopBits := max v.maxStopBits 1, rxState := .idle }, none, []⟩ := by
  simp only [V14.rxBit, h, if_true]

theorem V14.rxBit_stop_zero (h : v.rxState = .stopBit) : v.rxBit false =
    ⟨{ v with missGap := 0 }.startChar, none, if v.missGap.toNat ≤ 4 then [.stopbitMissing] else []⟩ := by
  simp only [V14.rxBit, h, Bool.false_eq_true, if_false]
  rfl

/-- R84: the eighth data bit completes the character. -/
theorem V14.rxBit_data_last (h : v.rxState = .receiving) (h7 : v.rxBitCount.toNat = 7) (b : Bool) : v.rxBit b =
    ⟨{ v with
      rxCurByte := orBit v.rxCurByte 7 b, rxBitCount := 8, rxState := .stopBit, missGap := v.nextMissGap },
      some (orBit v.rxCurByte 7 b), []⟩ := by
  have h8 : v.rxBitCount + 1 = 8 := by bv_omega
  simp only [V14.rxBit, h, V14.rxData, h8, h7, if_true]

/-- R84: any other data bit is packed. -/
theorem V14.rxBit_data_early (h : v.rxState = .receiving) (h7 : v.rxBitCount.toNat ≠ 7) (b : Bool) : v.rxBit b =
    ⟨{ v with rxCurByte := orBit v.rxCurByte v.rxBitCount.toNat b, rxBitCount := v.rxBitCount + 1 }, none, []⟩ := by
  have h8 : v.rxBitCount + 1 ≠ 8 := by bv_omega
  simp only [V14.rxBit, h, V14.rxData, if_neg h8]

/-- The answer of V14.RXBIT (R84): the character that the bit completes, or none. -/
def charAnswer : Option Octet → Result
  | some c => .octet c
  | none => .none

@[simp] theorem octets_charAnswer (c : Option Octet) : (charAnswer c).octets = c.toList := by
  cases c with
  | none | some => rfl

theorem exec_v14Rxbit (hw : s.written.v = true) (b : Bool) :
    exec (.v14Rxbit b) s =
      .next (((s.setV (s.v.rxBit b).v).log (s.v.rxBit b).events).answer (charAnswer (s.v.rxBit b).char)) := by
  refine (whenWritten_of_written hw _).trans ?_
  cases (s.v.rxBit b).char with
  | none | some => rfl

/-- V14.RXBIT of a bit that logs nothing. -/
theorem exec_v14Rxbit_of_rxBit (hw : s.written.v = true) {b : Bool} {char : Option Octet}
    (h : s.v.rxBit b = ⟨v, char, []⟩) :
    exec (.v14Rxbit b) s = .next { s with v := v, result := charAnswer char } := by
  rw [exec_v14Rxbit hw, h]
  simp only [State.log, List.append_nil]
  rfl

/-- Settles O6: V's own equation for each state and bit. -/
theorem v14RxbitEffect : Obligations.V14RxbitEffect := by
  intro s b hw _
  cases hst : s.v.rxState with
  | idle =>
    cases b with
    | false => exact exec_v14Rxbit_of_rxBit hw (V14.rxBit_idle_zero hst)
    | true => exact exec_v14Rxbit_of_rxBit hw (V14.rxBit_idle_one hst)
  | receiving =>
    by_cases h7 : s.v.rxBitCount.toNat = 7
    · rw [exec_v14Rxbit_of_rxBit hw (V14.rxBit_data_last hst h7 b), V14.nextMissGap_eq]
      simp only [if_pos h7]
      rw [h7]
      rfl
    · have hcnt : s.v.rxBitCount + 1 = BitVec.ofNat 4 (s.v.rxBitCount.toNat + 1) := by bv_omega
      rw [exec_v14Rxbit_of_rxBit hw (V14.rxBit_data_early hst h7 b), hcnt]
      simp only [if_neg h7]
      rfl
  | stopBit =>
    cases b with
    | false =>
      rw [exec_v14Rxbit hw, V14.rxBit_stop_zero hst]
      rfl
    | true => exact exec_v14Rxbit_of_rxBit hw (V14.rxBit_stop_one hst)

end Sys2Proof.Machine
end

section
/-!
SUPPORT. Several received bits (40_v14_framer.md R84, R85): the characters that complete, in order, at most one in every nine
bits; and V14.RX, which is eight V14.RXBIT.
-/

namespace Sys2Proof.Machine

variable {s : State} {v w : V14}

/-! ### The characters that several bits complete -/

/-- The characters that the bits complete, in order (R84). -/
def V14.rxChars : V14 → List Bool → List Octet
  | _, [] => []
  | v, b :: bs => (v.rxBit b).char.toList ++ V14.rxChars (v.rxBit b).v bs

/-- R85: of several characters the last is the result. -/
theorem V14.rxBits_char (v : V14) (bits : List Bool) : (v.rxBits bits).char = (v.rxChars bits).getLast? := by
  induction bits generalizing v with
  | nil => rfl
  | cons b bs ih =>
    rw [V14.rxBits, V14.rxChars, List.getLast?_append, ← ih]
    cases (v.rxBit b).char with
    | none | some => rfl

theorem V14.rxChars_append (v : V14) (as bs : List Bool) :
    v.rxChars (as ++ bs) = v.rxChars as ++ (v.rxBits as).v.rxChars bs := by
  induction as generalizing v with
  | nil => rfl
  | cons a as ih => rw [List.cons_append, V14.rxChars, V14.rxChars, ih, List.append_assoc, V14.rxBits]

theorem V14.rxBits_append_v (v : V14) (as bs : List Bool) :
    (v.rxBits (as ++ bs)).v = ((v.rxBits as).v.rxBits bs).v := by
  induction as generalizing v with
  | nil => rfl
  | cons a as ih => exact ih _

theorem V14.rxBits_append_events (v : V14) (as bs : List Bool) :
    (v.rxBits (as ++ bs)).events = (v.rxBits as).events ++ ((v.rxBits as).v.rxBits bs).events := by
  induction as generalizing v with
  | nil => rfl
  | cons a as ih => simp only [List.cons_append, V14.rxBits, ih, List.append_assoc]

/-! ### At most one character in every nine bits -/

/-- The least number of bits with which the next character can complete: a start bit and eight data bits, or the data bits still
missing (R84). -/
def V14.bitsToChar (v : V14) : Nat :=
  match v.rxState with
  | .idle | .stopBit => 9
  | .receiving => 8 - v.rxBitCount.toNat

theorem V14.bitsToChar_le (v : V14) : v.bitsToChar ≤ 9 := by
  cases hst : v.rxState with
  | idle | stopBit => simp only [V14.bitsToChar, hst, le_refl]
  | receiving =>
    simp only [V14.bitsToChar, hst]
    omega

theorem V14.bitsToChar_pos (hv : v.inv) : 1 ≤ v.bitsToChar := by
  cases hst : v.rxState with
  | idle | stopBit => simp [V14.bitsToChar, hst]
  | receiving =>
    have hcnt := hv.2.1 hst
    simp only [V14.bitsToChar, hst]
    omega

/-- R84: a bit takes at most one off the bits to the next character; completing one needs the last, and nine are to go again. -/
theorem V14.bitsToChar_rxBit (v : V14) (b : Bool) :
    v.bitsToChar + 9 * (v.rxBit b).char.toList.length ≤ (v.rxBit b).v.bitsToChar + 1 := by
  cases hst : v.rxState with
  | idle =>
    cases b with
    | false => simp [V14.rxBit_idle_zero hst, V14.bitsToChar, V14.startChar, hst]
    | true => simp [V14.rxBit_idle_one hst, V14.bitsToChar, hst]
  | stopBit =>
    cases b with
    | false => simp [V14.rxBit_stop_zero hst, V14.bitsToChar, V14.startChar, hst]
    | true => simp [V14.rxBit_stop_one hst, V14.bitsToChar, hst]
  | receiving =>
    by_cases h7 : v.rxBitCount.toNat = 7
    · simp [V14.rxBit_data_last hst h7, V14.bitsToChar, hst, h7]
    · have hcnt : 8 - v.rxBitCount.toNat ≤ 8 - (v.rxBitCount + 1).toNat + 1 := by bv_omega
      simpa [V14.rxBit_data_early hst h7, V14.bitsToChar, hst] using hcnt

/-- R85: every character but the first takes nine bits, the first what is still missing. -/
theorem V14.rxChars_length (v : V14) (bits : List Bool) :
    v.bitsToChar + 9 * (v.rxChars bits).length ≤ bits.length + 9 := by
  induction bits generalizing v with
  | nil => simpa [V14.rxChars] using v.bitsToChar_le
  | cons b bs ih =>
    have hone := v.bitsToChar_rxBit b
    have hrest := ih (v.rxBit b).v
    rw [V14.rxChars, List.length_append, List.length_cons]
    omega

/-- R85: eight bits complete at most one character. -/
theorem V14.rxChars_octet_length (hv : v.inv) (b : Octet) : (v.rxChars (octetBits b)).length ≤ 1 := by
  have hpos := V14.bitsToChar_pos hv
  have hlen := v.rxChars_length (octetBits b)
  rw [octetBits_length] at hlen
  omega

/-- A list with at most one entry, and its last one. -/
theorem toList_getLast?_of_length_le_one {α : Type} {l : List α} (h : l.length ≤ 1) : l.getLast?.toList = l := by
  match l, h with
  | [], _ => rfl
  | [_], _ => rfl

/-- R85: the result of V14.RX is every character that its bits complete. -/
theorem V14.rx_char_toList (hv : v.inv) (b : Octet) : (v.rx b).char.toList = v.rxChars (octetBits b) := by
  rw [V14.rx, V14.rxBits_char, toList_getLast?_of_length_le_one (V14.rxChars_octet_length hv b)]

/-! ### V14.RX -/

/-- R84: V14.RXBIT of several bits one after another. -/
theorem execAll_v14Rxbits (hw : s.written.v = true) (bits : List Bool) :
    ∃ r rs, execAll (bits.map .v14Rxbit) s
        = some (((s.setV (s.v.rxBits bits).v).log (s.v.rxBits bits).events).answer r, rs)
      ∧ rs.flatMap Result.octets = s.v.rxChars bits := by
  induction bits generalizing s with
  | nil => exact ⟨s.result, [], by simp [execAll, V14.rxBits, State.setV, State.log, State.answer], rfl⟩
  | cons b bs ih =>
    have hb := exec_v14Rxbit hw b
    have hv : (((s.setV (s.v.rxBit b).v).log (s.v.rxBit b).events).answer (charAnswer (s.v.rxBit b).char)).v
        = (s.v.rxBit b).v := rfl
    obtain ⟨r, rs, hrs, hchars⟩ := ih
      (s := ((s.setV (s.v.rxBit b).v).log (s.v.rxBit b).events).answer (charAnswer (s.v.rxBit b).char)) hw
    rw [hv] at hrs hchars
    refine ⟨r, charAnswer (s.v.rxBit b).char :: rs, ?_, ?_⟩
    · rw [List.map_cons, execAll_cons hb, hrs]
      simp only [State.log, State.answer, State.setV, V14.rxBits, List.append_assoc]
      rfl
    · rw [List.flatMap_cons, hchars, octets_charAnswer, V14.rxChars]

/-- The answer of V14.RX (R85): the character, or -1. -/
def rxAnswer : Option Octet → Result
  | some c => .octet c
  | none => .minusOne

@[simp] theorem octets_rxAnswer (c : Option Octet) : (rxAnswer c).octets = c.toList := by
  cases c with
  | none | some => rfl

theorem exec_v14Rx (hw : s.written.v = true) (b : Octet) :
    exec (.v14Rx b) s = .next (((s.setV (s.v.rx b).v).log (s.v.rx b).events).answer (rxAnswer (s.v.rx b).char)) := by
  refine (whenWritten_of_written hw _).trans ?_
  cases (s.v.rx b).char with
  | none | some => rfl

/-- Settles O7: V14.RX leaves what `execAll_v14Rxbits` leaves, and answers the one character of `rxChars_octet_length`. -/
theorem v14RxIsEightBits : Obligations.V14RxIsEightBits := by
  intro s b hw hv
  obtain ⟨r, rs, hrs, hchars⟩ := execAll_v14Rxbits hw (octetBits b)
  have hchar := V14.rx_char_toList hv b
  refine ⟨_, rs, hrs, ?_, ?_⟩
  · rw [hchars]
    exact V14.rxChars_octet_length hv b
  · rw [exec_v14Rx hw, hchars, ← hchar]
    cases (s.v.rx b).char with
    | none | some => rfl

end Sys2Proof.Machine
end

section
/-!
SUPPORT. The round trip of unit V (40_v14_framer.md R89): the characters that V14.TX and V14.FLUSH queue, popped and read by
V14.RX.
-/

namespace Sys2Proof.Machine

variable {s t : State} {v w x : V14}

/-! ### Operations one after another -/

theorem execAll_append {is js : List Instr} {rs : List Result} (h : execAll is s = some (t, rs)) :
    execAll (is ++ js) s = (execAll js t).map fun r => (r.1, rs ++ r.2) := by
  induction is generalizing s rs with
  | nil =>
    cases h
    exact Option.map_id'.symm
  | cons i is ih =>
    cases hi : exec i s with
    | next s' =>
      rw [execAll_cons hi] at h
      obtain ⟨⟨t', rs'⟩, hrest, hr⟩ := Option.map_eq_some_iff.mp h
      cases hr
      rw [List.cons_append, execAll_cons hi, ih hrest, Option.map_map]
      rfl
    | fault | refused => simp only [execAll, hi, reduceCtorEq] at h

/-! ### What is sent -/

theorem V14.queued_trans {as bs : List Bool} (h : v.queued w as) (h' : w.queued x bs) : v.queued x (as ++ bs) := by
  obtain ⟨hline, -, hframe⟩ := h
  obtain ⟨hline', hinv, hframe'⟩ := h'
  exact ⟨by rw [hline', hline, List.append_assoc], hinv, hframe'.trans (by rw [hframe])⟩

/-- V waits for a start bit, and the run of 1s is in the longest run (R84). -/
def V14.Resting (v : V14) : Prop := v.rxState = .idle ∧ v.rxStopBits ≤ v.maxStopBits

/-- R81: what is queued does not reach the receiver. -/
theorem V14.Resting.queued {bits : List Bool} (hv : v.Resting) (h : v.queued w bits) : w.Resting := by
  obtain ⟨-, -, hframe⟩ := h
  rw [hframe]
  exact hv

/-- R82: V14.TX of several octets queues their characters. -/
theorem execAll_v14Txs (hw : s.written.v = true) (hv : s.v.inv) (octets : List Octet) :
    ∃ t rs, execAll (octets.map .v14Tx) s = some (t, rs) ∧ t.written = s.written ∧ t.trace = s.trace
      ∧ s.v.queued t.v (octets.flatMap fun d => charBits d s.v.txStopBits) := by
  induction octets generalizing s with
  | nil => exact ⟨s, [], rfl, rfl, rfl, (List.append_nil _).symm, hv, rfl⟩
  | cons d ds ih =>
    have hd := exec_v14Tx hw d
    have hq := V14.tx_queued hv d
    generalize s.v.tx d = v at hd hq
    have hstop : v.txStopBits = s.v.txStopBits := by rw [hq.2.2]
    obtain ⟨t, rs, hrs, hwritten, htrace, hqs⟩ := ih (s := { s with v := v, result := .none }) hw hq.2.1
    refine ⟨t, .none :: rs, ?_, hwritten, htrace, ?_⟩
    · rw [List.map_cons, execAll_cons hd, hrs]
      rfl
    · simp only [hstop] at hqs
      exact V14.queued_trans hq hqs

/-- R82, R83: V14.TX of several octets and one V14.FLUSH queue whole octets, the characters' bits and then 1s. -/
theorem execAll_v14Send (hw : s.written.v = true) (hv : s.v.inv) (hempty : s.v.lineBits = []) (hrest : s.v.Resting)
    (octets : List Octet) :
    ∃ t rs n, execAll (octets.map .v14Tx ++ [.v14Flush]) s = some (t, rs) ∧ t.written = s.written ∧ t.trace = s.trace
      ∧ octetsBits t.v.txQueue = (octets.flatMap fun d => charBits d s.v.txStopBits) ++ List.replicate n true
      ∧ t.v.inv ∧ t.v.Resting := by
  obtain ⟨t, rs, hrs, hwritten, htrace, hq⟩ := execAll_v14Txs hw hv octets
  have hflush := exec_v14Flush (s := t) (by rw [hwritten]; exact hw)
  obtain ⟨hqf, hcnt, -⟩ := V14.flush_queued hq.2.1
  generalize t.v.flush = v at hflush hqf hcnt
  have hall := V14.queued_trans hq hqf
  obtain ⟨hline, hinv, -⟩ := id hall
  have hwhole : v.lineBits = octetsBits v.txQueue := by simp [V14.lineBits, hcnt]
  refine ⟨{ t with v := v, result := .none }, rs ++ [.none], 8 - t.v.txBitCount.toNat, ?_, hwritten, htrace, ?_, hinv,
    hrest.queued hall⟩
  · rw [execAll_append hrs, execAll_cons hflush]
    rfl
  · rw [← hwhole, hline, hempty, List.nil_append]

/-- R87: V14.POP until V's queue is empty answers its octets in order. -/
theorem execAll_v14Pops (hw : s.written.v = true) {queue : List Octet} (hq : s.v.txQueue = queue) :
    ∃ r, execAll (List.replicate queue.length .v14Pop) s
      = some ({ s with v := { s.v with txQueue := [] }, result := r }, queue.map .octet) := by
  induction queue generalizing s with
  | nil =>
    have hv : { s.v with txQueue := [] } = s.v := by rw [← hq]
    rw [hv]
    exact ⟨s.result, rfl⟩
  | cons b q ih =>
    have hb : exec .v14Pop s = .next { s with v := { s.v with txQueue := q }, result := .octet b } := pop_cons hw hq _
    obtain ⟨r, hr⟩ := ih (s := { s with v := { s.v with txQueue := q }, result := .octet b }) hw rfl
    exact ⟨r, by rw [List.length_cons, List.replicate_succ, execAll_cons hb, hr]; rfl⟩

theorem octets_map_octet (os : List Octet) : (os.map Result.octet).flatMap Result.octets = os := by
  rw [List.flatMap_map]
  exact List.flatMap_singleton' os

/-! ### What is received -/

/-- R84: the bits lead V to `w`, complete the characters `cs` and log nothing. -/
def V14.Reads (v : V14) (bits : List Bool) (w : V14) (cs : List Octet) : Prop :=
  (v.rxBits bits).v = w ∧ v.rxChars bits = cs ∧ (v.rxBits bits).events = []

theorem V14.Reads.append {as bs : List Bool} {cs ds : List Octet} (h : v.Reads as w cs) (h' : w.Reads bs x ds) :
    v.Reads (as ++ bs) x (cs ++ ds) := by
  obtain ⟨rfl, rfl, hevents⟩ := h
  obtain ⟨rfl, rfl, hevents'⟩ := h'
  exact ⟨V14.rxBits_append_v v as bs, V14.rxChars_append v as bs, by
    rw [V14.rxBits_append_events, hevents, hevents', List.append_nil]⟩

theorem V14.reads_of_rxBits {bits : List Bool} (h : v.rxBits bits = ⟨w, none, []⟩) : v.Reads bits w [] := by
  have hchar := V14.rxBits_char v bits
  rw [h] at hchar
  exact ⟨by rw [h], List.getLast?_eq_none_iff.mp hchar.symm, by rw [h]⟩

theorem V14.reads_of_rxBit {b : Bool} {char : Option Octet} (h : v.rxBit b = ⟨w, char, []⟩) :
    v.Reads [b] w char.toList := by
  simp only [V14.Reads, V14.rxBits, V14.rxChars, h, List.append_nil, and_self]

/-- R84: a character on the line is received, and V rests again. -/
theorem V14.Resting.reads_char (hv : v.Resting) (d : Octet) {stops : Nat} (hstops : 1 ≤ stops) :
    ∃ w, v.Reads (charBits d stops) w [d] ∧ w.Resting := by
  obtain ⟨w, hearly, hlast⟩ := V14.rxBits_data hv.1 d
  have hchar := ((V14.reads_of_rxBits hearly).append (V14.reads_of_rxBit hlast)).append
    (V14.reads_of_rxBits (V14.rxBits_stops (v := v.dataDone d) rfl hstops))
  exact ⟨_, hchar, rfl, Nat.le_max_right _ _⟩

theorem V14.Resting.reads_chars (hv : v.Resting) (octets : List Octet) {stops : Nat} (hstops : 1 ≤ stops) :
    ∃ w, v.Reads (octets.flatMap fun d => charBits d stops) w octets ∧ w.Resting := by
  induction octets generalizing v with
  | nil => exact ⟨v, ⟨rfl, rfl, rfl⟩, hv⟩
  | cons d ds ih =>
    obtain ⟨w, hd, hw⟩ := hv.reads_char d hstops
    obtain ⟨x, hds, hx⟩ := ih hw
    exact ⟨x, hd.append hds, hx⟩

/-- R84: characters on the line and 1s behind them give the characters. -/
theorem V14.Resting.reads_line (hv : v.Resting) (octets : List Octet) {stops : Nat} (hstops : 1 ≤ stops) (n : Nat) :
    ∃ w, v.Reads ((octets.flatMap fun d => charBits d stops) ++ List.replicate n true) w octets := by
  obtain ⟨w, hchars, hidle, hrun⟩ := hv.reads_chars octets hstops
  have hline := hchars.append (V14.reads_of_rxBits (V14.rxBits_idle hidle hrun n))
  rw [List.append_nil] at hline
  exact ⟨_, hline⟩

/-- R85: V14.RX of several octets answers every character that their bits complete. -/
theorem execAll_v14Rxs (hw : s.written.v = true) (hv : s.v.inv) (os : List Octet) :
    ∃ t rs, execAll (os.map .v14Rx) s = some (t, rs) ∧ rs.flatMap Result.octets = s.v.rxChars (octetsBits os)
      ∧ t.trace = s.trace ++ (s.v.rxBits (octetsBits os)).events := by
  induction os generalizing s with
  | nil => exact ⟨s, [], rfl, rfl, (List.append_nil _).symm⟩
  | cons b bs ih =>
    have hb := exec_v14Rx hw b
    have hchar := V14.rx_char_toList hv b
    have hv' : (s.v.rx b).v.inv := V14.rxBits_inv hv _
    obtain ⟨t, rs, hrs, hchars, htrace⟩ := ih
      (s := ((s.setV (s.v.rx b).v).log (s.v.rx b).events).answer (rxAnswer (s.v.rx b).char)) hw hv'
    refine ⟨t, rxAnswer (s.v.rx b).char :: rs, ?_, ?_, ?_⟩
    · rw [List.map_cons, execAll_cons hb, hrs]
      rfl
    · rw [List.flatMap_cons, octets_rxAnswer, hchar, hchars, octetsBits_cons, V14.rxChars_append]
      rfl
    · rw [htrace, octetsBits_cons, V14.rxBits_append_events, ← List.append_assoc]
      rfl

/-- Settles O9: `execAll_v14Send` says which bits are queued, `execAll_v14Rxs` which characters V14.RX answers, and
`reads_line` that they are those sent. -/
theorem v14RoundTrip : Obligations.V14RoundTrip := by
  intro s octets stops hstops
  have hreset : exec .v14Reset s
      = .next { s with v := V14.atReset, written := { s.written with v := true }, result := .none } := rfl
  have hsetsb := exec_v14Setsb
    (s := { s with v := V14.atReset, written := { s.written with v := true }, result := .none }) rfl
    (Nat.one_le_iff_ne_zero.mp hstops)
  have hinv : ({ V14.atReset with txStopBits := stops } : V14).inv := by
    obtain ⟨hcnt, hrec, -, hrx, htx, hgap⟩ := V14.atReset_inv
    exact ⟨hcnt, hrec, hstops, hrx, htx, hgap⟩
  obtain ⟨t, as, n, hsend, hwritten, htrace, hqueue, htinv, hrest⟩ := execAll_v14Send
    (s := { s with
      v := { V14.atReset with txStopBits := stops }, written := { s.written with v := true }, result := .none })
    rfl hinv rfl ⟨rfl, le_refl 0⟩ octets
  obtain ⟨r, hpops⟩ := execAll_v14Pops (s := t) (by rw [hwritten]) rfl
  have hempty : ({ t.v with txQueue := [] } : V14).Resting := hrest
  obtain ⟨-, -, hchars, hevents⟩ := hempty.reads_line octets hstops n
  obtain ⟨u, cs, hrx, hcs, hutrace⟩ := execAll_v14Rxs (s := { t with v := { t.v with txQueue := [] }, result := r })
    (by rw [hwritten]) htinv t.v.txQueue
  rw [hqueue] at hcs hutrace
  refine ⟨t, _, u, .none :: .none :: as, _, cs, ?_, hpops, rfl, ?_, hcs.trans hchars, ?_⟩
  · rw [execAll_cons hreset, execAll_cons hsetsb, hsend]
    rfl
  · rw [octets_map_octet]
    exact hrx
  · rw [hutrace, hevents, List.append_nil]
    exact htrace

end Sys2Proof.Machine
end

section
/-!
SUPPORT. What unit H does with one received bit (41_hdlc_crc.md R105), case by case, and the operations of H behind their
refusals (R100, R102, R104).
-/

namespace Sys2Proof.Machine

variable {h : Hdlc} {s : State}

/-! ### The CRC (R100) -/

/-- R100: the generator takes the eight bits of each octet in turn, bit 0 first. -/
theorem crc16_eq (m : List Octet) :
    crc16 m = m.foldl (fun crc o => (List.range 8).foldl (fun r k => crcBit r (o.getLsbD k)) crc) 0xFFFF ^^^ 0xFFFF := by
  have hoctet : ∀ (crc : BitVec 16) (o : Octet),
      (octetBits o).foldl crcBit crc = (List.range 8).foldl (fun r k => crcBit r (o.getLsbD k)) crc := fun _ _ => rfl
  rw [crc16, octetsBits, List.foldl_flatMap]
  simp only [hoctet]

/-- Settles O10: H.CRC16 answers `crc16`, whose generator takes the octets' bits in turn. -/
theorem hCrc16Value : Obligations.HCrc16Value := by
  intro s m hw
  have hexec : exec (.hCrc16 m) s = done s (.word (crc16 m)) := whenWritten_of_written hw _
  rw [hexec, crc16_eq]
  rfl

/-! ### Sending (R102, R104) -/

theorem done_setH (s : State) (k : Hdlc) : done (s.setH k) .none = .next { s with h := k, result := .none } := rfl

theorem exec_hSendflag (hw : s.written.h = true) :
    exec .hSendflag s = .next { s with h := s.h.sendFlag, result := .none } :=
  (whenWritten_of_written hw _).trans (done_setH s _)

theorem exec_hSendframe (hw : s.written.h = true) (f : List Octet) :
    exec (.hSendframe f) s = .next { s with h := s.h.sendFrame f, result := .none } :=
  (whenWritten_of_written hw _).trans (done_setH s _)

/-- R102: a flag is queued. -/
theorem Hdlc.sendFlag_queued (hh : h.inv) :
    h.queued h.sendFlag [false, true, true, true, true, true, true, false] := by
  obtain ⟨hline, hinv, hframe⟩ := Hdlc.sendFlag_lineBits hh
  generalize h.sendFlag = k at hline hinv hframe ⊢
  have hones : k.txOnes = 0 := by rw [hframe]
  exact ⟨hline, hinv, hones, by rw [hones]; exact hframe⟩

/-- Settles O11: `sendFlag_queued` and `sendFrame_queued` say what is queued. -/
theorem hSendQueuesLine : Obligations.HSendQueuesLine := by
  intro s f hw hh
  have hflag := Hdlc.sendFlag_queued hh
  have hframe := Hdlc.sendFrame_queued hh f
  rw [frameBits, ← List.append_assoc] at hframe
  rw [exec_hSendflag hw, exec_hSendframe hw]
  generalize s.h.sendFlag = k at hflag ⊢
  generalize s.h.sendFrame f = m at hframe ⊢
  exact ⟨⟨_, rfl, rfl, hflag⟩, ⟨_, rfl, rfl, hframe⟩⟩

/-! ### One received bit (R105) -/

/-- H with a run of `n` 1s received. -/
def Hdlc.withOnes (h : Hdlc) (n : BitVec 3) : Hdlc := { h with rxOnes := n }

/-- H with its run of 1s over and no frame in progress, as it is right behind a flag. -/
def Hdlc.behindFlag (h : Hdlc) : Hdlc := { h with rxOnes := 0, rxFrame := [], rxCur := 0, rxCnt := 0 }

/-- H with the abort taken and no frame in progress. -/
def Hdlc.aborted (h : Hdlc) : Hdlc := { h with rxOnes := 7, rxFrame := [], rxCur := 0, rxCnt := 0 }

/-- R105: the eighth bit of an octet completes it. -/
theorem Hdlc.shift_last (h7 : h.rxCnt = 7) (b : Bool) :
    h.shift b = { h with rxFrame := h.rxFrame ++ [orBit h.rxCur 7 b], rxCur := 0, rxCnt := 0 } := by
  simp only [Hdlc.shift, h7]
  rfl

/-- R105: a bit before the eighth. -/
theorem Hdlc.shift_early (h7 : h.rxCnt ≠ 7) (b : Bool) :
    h.shift b = { h with rxCur := orBit h.rxCur h.rxCnt.toNat b, rxCnt := h.rxCnt + 1 } := by
  simp only [Hdlc.shift, if_neg h7]

/-- R105: `Shift` does not touch the run of 1s. -/
theorem Hdlc.shift_withOnes (h : Hdlc) (n : BitVec 3) (b : Bool) : (h.withOnes n).shift b = (h.shift b).withOnes n := by
  by_cases h7 : h.rxCnt = 7
  · rw [Hdlc.shift_last h7, Hdlc.shift_last (h := h.withOnes n) h7]
    rfl
  · rw [Hdlc.shift_early h7, Hdlc.shift_early (h := h.withOnes n) h7]
    rfl

theorem Hdlc.rxBit_one_ignored (h7 : h.rxOnes = 7) : h.rxBit true = (h, .none) := by
  simp only [Hdlc.rxBit, if_true, h7]

theorem Hdlc.rxBit_one_abort (h6 : h.rxOnes = 6) : h.rxBit true = (h.aborted, .abort) := by
  simp [Hdlc.rxBit, h6, Hdlc.dropFrame, Hdlc.aborted]

theorem Hdlc.rxBit_one_shift (hlt : h.rxOnes.toNat < 6) :
    h.rxBit true = ((h.shift true).withOnes (h.rxOnes + 1), .none) := by
  have h7 : h.rxOnes ≠ 7 := by bv_omega
  have h6 : h.rxOnes + 1 ≠ 7 := by bv_omega
  rw [← Hdlc.shift_withOnes]
  simp only [Hdlc.rxBit, if_true, if_neg h7, if_neg h6, Hdlc.withOnes]

theorem Hdlc.rxBit_zero_stuffed (h5 : h.rxOnes = 5) : h.rxBit false = (h.withOnes 0, .none) := by
  simp only [Hdlc.rxBit, Bool.false_eq_true, if_false, h5, if_true, Hdlc.withOnes]

theorem Hdlc.rxBit_zero_flag (h6 : h.rxOnes = 6) : h.rxBit false = (h.behindFlag, .frame h.rxFrame) := by
  simp [Hdlc.rxBit, h6, Hdlc.dropFrame, Hdlc.behindFlag]

theorem Hdlc.rxBit_zero_shift (h5 : h.rxOnes ≠ 5) (h6 : h.rxOnes ≠ 6) :
    h.rxBit false = ((h.shift false).withOnes 0, .none) := by
  rw [← Hdlc.shift_withOnes]
  simp only [Hdlc.rxBit, Bool.false_eq_true, if_false, if_neg h5, if_neg h6, Hdlc.withOnes]

/-- R105: a bit shifted in, whatever the run of 1s now is. -/
theorem Hdlc.shift_withOnes_shifted (hh : h.inv) (b : Bool) (n : BitVec 3) : h.shifted ((h.shift b).withOnes n) b n := by
  obtain ⟨hheld, hinv, hframe⟩ := Hdlc.shift_shifted hh b
  generalize h.shift b = k at hheld hinv hframe ⊢
  exact ⟨hheld, hinv, by rw [hframe]; rfl⟩

/-- What H.RXBIT answers (R105). -/
def hdlcAnswer : HdlcResult → Result
  | .none => .none
  | .frame f => .frame f
  | .abort => .abort

/-- What H.RXBIT logs: an abort (R105). -/
def hdlcEvents : HdlcResult → List Event
  | .abort => [.abort]
  | .none | .frame _ => []

/-- R105: H.RXBIT of a written H. -/
theorem exec_hRxbit (hw : s.written.h = true) (b : Bool) :
    exec (.hRxbit b) s = .next { s with
      h := (s.h.rxBit b).1, trace := s.trace ++ hdlcEvents (s.h.rxBit b).2, result := hdlcAnswer (s.h.rxBit b).2 } := by
  refine (whenWritten_of_written hw _).trans ?_
  obtain ⟨k, r⟩ := s.h.rxBit b
  cases r with
  | none | frame =>
    simp only [hdlcEvents, List.append_nil]
    rfl
  | abort => rfl

theorem exec_hRxbit_of_rxBit (hw : s.written.h = true) {b : Bool} {k : Hdlc} {r : HdlcResult}
    (hr : s.h.rxBit b = (k, r)) :
    exec (.hRxbit b) s = .next { s with h := k, trace := s.trace ++ hdlcEvents r, result := hdlcAnswer r } := by
  rw [exec_hRxbit hw, hr]

/-- Settles O13: each clause is one case of `Hdlc.rxBit`. -/
theorem hRxbitEffect : Obligations.HRxbitEffect := by
  intro s b hw hh
  refine ⟨_, exec_hRxbit hw b, ?_, ?_, ?_, ?_, ?_, ?_⟩
  · rintro rfl h7
    simp only [Hdlc.rxBit_one_ignored h7, hdlcEvents, hdlcAnswer, List.append_nil]
  · rintro rfl h6
    simp only [Hdlc.rxBit_one_abort h6, hdlcEvents, hdlcAnswer, Hdlc.aborted]
  · rintro rfl hlt
    have hones : BitVec.ofNat 3 (s.h.rxOnes.toNat + 1) = s.h.rxOnes + 1 := by bv_omega
    simp only [Hdlc.rxBit_one_shift hlt, hdlcEvents, hdlcAnswer, List.append_nil, hones, true_and]
    exact Hdlc.shift_withOnes_shifted hh true _
  · rintro rfl h5
    simp only [Hdlc.rxBit_zero_stuffed h5, hdlcEvents, hdlcAnswer, List.append_nil, Hdlc.withOnes]
  · rintro rfl h6
    simp only [Hdlc.rxBit_zero_flag h6, hdlcEvents, hdlcAnswer, List.append_nil, Hdlc.behindFlag]
  · rintro rfl h5 h6
    simp only [Hdlc.rxBit_zero_shift h5 h6, hdlcEvents, hdlcAnswer, List.append_nil, true_and]
    exact Hdlc.shift_withOnes_shifted hh false 0

end Sys2Proof.Machine
end

section
/-!
SUPPORT. Zero-bit insertion limits the runs of 1s (41_hdlc_crc.md R103, R109).
-/

namespace Sys2Proof

/-- A run of six 1s stands on one side of a 0. -/
theorem not_sixOnes_infix_ones_zero {n : Nat} (hn : n < 6) {l : List Bool} (hl : ¬ List.replicate 6 true <:+: l) :
    ¬ List.replicate 6 true <:+: List.replicate n true ++ false :: l := by
  induction n with
  | zero =>
    rw [List.replicate_zero, List.nil_append, List.infix_cons_iff, not_or]
    exact ⟨by simp [List.replicate_succ], hl⟩
  | succ n ih =>
    rw [List.replicate_succ (n := n), List.cons_append, List.infix_cons_iff, not_or]
    refine ⟨fun hpre => ?_, ih (by omega)⟩
    have hget := hpre.getElem (i := n + 1) (by simpa using hn)
    rw [List.getElem_replicate] at hget
    simp at hget

/-- R103, R109: behind `k` 1s the stuffed bits bring no run to six. -/
theorem not_sixOnes_infix_stuffBits (bits : List Bool) {k : Nat} (hk : k ≤ 4) :
    ¬ List.replicate 6 true <:+: List.replicate k true ++ stuffBits k bits := by
  induction bits generalizing k with
  | nil =>
    intro hin
    have hlen := hin.length_le
    simp [stuffBits] at hlen
    omega
  | cons b bs ih =>
    cases b with
    | false => exact not_sixOnes_infix_ones_zero (by omega) (ih (Nat.zero_le 4))
    | true =>
      rw [stuffBits]
      split
      · next h4 =>
        subst h4
        exact not_sixOnes_infix_ones_zero (n := 5) (by omega) (ih (Nat.zero_le 4))
      · have hnext := ih (k := k + 1) (by omega)
        rwa [List.replicate_succ' (n := k), List.append_assoc] at hnext

/-- Settles O12: a run never passes five 1s, and destuffing inverts stuffing. -/
theorem stuffingLimitsOnes : Obligations.StuffingLimitsOnes := fun bits =>
  ⟨not_sixOnes_infix_stuffBits bits (Nat.zero_le 4), destuffBits_stuffBits bits (Nat.zero_le 4)⟩

end Sys2Proof
end

section
/-!
SUPPORT. Several bits given to unit H (41_hdlc_crc.md R105): runs of 1s, stuffed octets and flags, and the round trip of a
frame (R109).
-/

namespace Sys2Proof.Machine

variable {h k m : Hdlc} {s : State} {r : HdlcResult}

/-! ### Bits one after another -/

/-- R105: the bits lead H to `k` and give no result. -/
def Hdlc.Collects : Hdlc → List Bool → Hdlc → Prop
  | h, [], k => k = h
  | h, b :: bs, k => ∃ m, h.rxBit b = (m, .none) ∧ m.Collects bs k

/-- R105: the bits lead H to `k` and give the result `r` at the last of them, none before. -/
def Hdlc.Ends (h : Hdlc) (bits : List Bool) (k : Hdlc) (r : HdlcResult) : Prop :=
  ∃ as b m, bits = as ++ [b] ∧ h.Collects as m ∧ m.rxBit b = (k, r)

theorem Hdlc.Collects.append {as bs : List Bool} (ha : h.Collects as m) (hb : m.Collects bs k) :
    h.Collects (as ++ bs) k := by
  induction as generalizing h with
  | nil => exact ha ▸ hb
  | cons a as ih =>
    obtain ⟨x, hx, has⟩ := ha
    exact ⟨x, hx, ih has⟩

theorem Hdlc.collects_of_rxBit {b : Bool} (hb : h.rxBit b = (k, .none)) : h.Collects [b] k := ⟨k, hb, rfl⟩

theorem Hdlc.Collects.ends {as : List Bool} {b : Bool} (ha : h.Collects as m) (hb : m.rxBit b = (k, r)) :
    h.Ends (as ++ [b]) k r := ⟨as, b, m, rfl, ha, hb⟩

theorem Hdlc.Collects.append_ends {as bs : List Bool} (ha : h.Collects as m) (hb : m.Ends bs k r) :
    h.Ends (as ++ bs) k r := by
  obtain ⟨cs, b, x, rfl, hcs, hx⟩ := hb
  rw [← List.append_assoc]
  exact (ha.append hcs).ends hx

/-! ### What is shifted in -/

/-- `Shift` of several bits (R105). -/
def Hdlc.shiftBits (h : Hdlc) (bits : List Bool) : Hdlc := bits.foldl Hdlc.shift h

theorem Hdlc.shiftBits_cons (h : Hdlc) (b : Bool) (bs : List Bool) :
    h.shiftBits (b :: bs) = (h.shift b).shiftBits bs := rfl

theorem Hdlc.shiftBits_append (h : Hdlc) (as bs : List Bool) :
    h.shiftBits (as ++ bs) = (h.shiftBits as).shiftBits bs := List.foldl_append

theorem Hdlc.shiftBits_withOnes (h : Hdlc) (n : BitVec 3) (bits : List Bool) :
    (h.withOnes n).shiftBits bits = (h.shiftBits bits).withOnes n := by
  induction bits generalizing h with
  | nil => rfl
  | cons b bs ih => rw [Hdlc.shiftBits_cons, Hdlc.shift_withOnes, ih, Hdlc.shiftBits_cons]

/-- R31, R105: bits that complete no octet are packed into the octet that is begun. -/
theorem Hdlc.shiftBits_of_le (bits : List Bool) (hn : h.rxCnt.toNat + bits.length ≤ 7) :
    h.shiftBits bits = { h with
      rxCur := orBits h.rxCur h.rxCnt.toNat bits, rxCnt := h.rxCnt + BitVec.ofNat 3 bits.length } := by
  induction bits generalizing h with
  | nil => simp [Hdlc.shiftBits, orBits]
  | cons b bs ih =>
    rw [List.length_cons] at hn
    have h7 : h.rxCnt ≠ 7 := by bv_omega
    have hcnt : (h.rxCnt + 1).toNat = h.rxCnt.toNat + 1 := by bv_omega
    have hlen : h.rxCnt + 1 + BitVec.ofNat 3 bs.length = h.rxCnt + BitVec.ofNat 3 (b :: bs).length := by
      rw [List.length_cons]
      bv_omega
    rw [Hdlc.shiftBits_cons, Hdlc.shift_early h7, ih (by show (h.rxCnt + 1).toNat + bs.length ≤ 7; omega)]
    simp only [orBits, hcnt, hlen]

/-- R31: packing an octet's bits gives the octet. -/
theorem orBits_octetBits (o : Octet) : orBits 0 0 (octetBits o) = o := by
  revert o
  decide +kernel

/-- R105: behind whole octets, an octet's bits are one more. -/
theorem Hdlc.shiftBits_octetBits (hcur : h.rxCur = 0) (hcnt : h.rxCnt = 0) (o : Octet) :
    h.shiftBits (octetBits o) = { h with rxFrame := h.rxFrame ++ [o] } := by
  have hcut : octetBits o = (octetBits o).take 7 ++ [o.getLsbD 7] := rfl
  have hlast : orBit (orBits 0 0 ((octetBits o).take 7)) 7 (o.getLsbD 7) = o := orBits_octetBits o
  have hseven : h.shiftBits ((octetBits o).take 7)
      = { h with rxCur := orBits 0 0 ((octetBits o).take 7), rxCnt := 7 } := by
    rw [Hdlc.shiftBits_of_le _ (by rw [hcnt]; exact le_refl 7), hcur, hcnt]
    rfl
  rw [hcut, Hdlc.shiftBits_append, hseven, Hdlc.shiftBits_cons, Hdlc.shift_last (by rfl), hlast, ← hcur, ← hcnt]
  rfl

theorem Hdlc.shiftBits_octetsBits (hcur : h.rxCur = 0) (hcnt : h.rxCnt = 0) (os : List Octet) :
    h.shiftBits (octetsBits os) = { h with rxFrame := h.rxFrame ++ os } := by
  induction os generalizing h with
  | nil => simp [Hdlc.shiftBits]
  | cons o os ih =>
    rw [octetsBits_cons, Hdlc.shiftBits_append, Hdlc.shiftBits_octetBits hcur hcnt, ih (by exact hcur) (by exact hcnt)]
    simp only [List.append_assoc, List.singleton_append]

theorem Hdlc.shift_behindFlag (h : Hdlc) (b : Bool) : (h.shift b).behindFlag = h.behindFlag := by
  by_cases h7 : h.rxCnt = 7
  · rw [Hdlc.shift_last h7]
    rfl
  · rw [Hdlc.shift_early h7]
    rfl

/-- R105: whatever was shifted in, a flag drops it. -/
theorem Hdlc.shiftBits_behindFlag (h : Hdlc) (bits : List Bool) : (h.shiftBits bits).behindFlag = h.behindFlag := by
  induction bits generalizing h with
  | nil => rfl
  | cons b bs ih => rw [Hdlc.shiftBits_cons, ih, Hdlc.shift_behindFlag]

/-! ### Runs of 1s, stuffed bits and flags -/

/-- R105: up to six 1s are shifted in. -/
theorem Hdlc.collects_ones (n : Nat) (hn : h.rxOnes.toNat + n ≤ 6) :
    h.Collects (List.replicate n true)
      ((h.shiftBits (List.replicate n true)).withOnes (h.rxOnes + BitVec.ofNat 3 n)) := by
  induction n generalizing h with
  | zero =>
    show _ = _
    simp [Hdlc.withOnes, Hdlc.shiftBits]
  | succ n ih =>
    have hones : (h.rxOnes + 1).toNat = h.rxOnes.toNat + 1 := by bv_omega
    have hsum : h.rxOnes + 1 + BitVec.ofNat 3 n = h.rxOnes + BitVec.ofNat 3 (n + 1) := by bv_omega
    have hrest := ih (h := (h.shift true).withOnes (h.rxOnes + 1)) (by show (h.rxOnes + 1).toNat + n ≤ 6; omega)
    rw [Hdlc.shiftBits_withOnes] at hrest
    refine ⟨_, Hdlc.rxBit_one_shift (by omega), ?_⟩
    rw [← hsum]
    exact hrest

/-- R103, R105: of stuffed bits those that were stuffed are shifted in, the inserted 0s are not; no run of 1s reaches five. -/
theorem Hdlc.collects_stuffBits (hle : h.rxOnes.toNat ≤ 4) (bits : List Bool) :
    ∃ n : BitVec 3, n.toNat ≤ 4 ∧ h.Collects (stuffBits h.rxOnes.toNat bits) ((h.shiftBits bits).withOnes n) := by
  induction bits generalizing h with
  | nil => exact ⟨h.rxOnes, hle, rfl⟩
  | cons b bs ih =>
    have hrest : ∀ c : BitVec 3, c.toNat ≤ 4 → ∃ n : BitVec 3, n.toNat ≤ 4
        ∧ ((h.shift b).withOnes c).Collects (stuffBits c.toNat bs) ((h.shiftBits (b :: bs)).withOnes n) := by
      intro c hc
      obtain ⟨n, hn, hbs⟩ := ih (h := (h.shift b).withOnes c) hc
      rw [Hdlc.shiftBits_withOnes] at hbs
      exact ⟨n, hn, hbs⟩
    cases b with
    | false =>
      obtain ⟨n, hn, hbs⟩ := hrest 0 (Nat.zero_le 4)
      exact ⟨n, hn, _, Hdlc.rxBit_zero_shift (by bv_omega) (by bv_omega), hbs⟩
    | true =>
      have hone := Hdlc.rxBit_one_shift (h := h) (by omega)
      rw [stuffBits]
      split
      · next h4 =>
        have h5 : h.rxOnes + 1 = 5 := by bv_omega
        obtain ⟨n, hn, hbs⟩ := hrest 0 (Nat.zero_le 4)
        exact ⟨n, hn, _, hone, _, Hdlc.rxBit_zero_stuffed h5, hbs⟩
      · have hadd : (h.rxOnes + 1).toNat = h.rxOnes.toNat + 1 := by bv_omega
        obtain ⟨n, hn, hbs⟩ := hrest (h.rxOnes + 1) (by omega)
        rw [hadd] at hbs
        exact ⟨n, hn, _, hone, hbs⟩

/-- R105: six 1s and a 0 behind a 0 end the frame in progress; behind whole octets the 1s do not complete one. -/
theorem Hdlc.ends_flagTail (h0 : h.rxOnes = 0) :
    ∃ f, (h.rxCnt.toNat ≤ 1 → f = h.rxFrame)
      ∧ h.Ends (List.replicate 6 true ++ [false]) h.behindFlag (.frame f) := by
  have hones := Hdlc.collects_ones (h := h) 6 (by rw [h0]; decide)
  have hrun : h.rxOnes + BitVec.ofNat 3 6 = 6 := by rw [h0]; rfl
  have hdrop : (h.shiftBits (List.replicate 6 true)).behindFlag = h.behindFlag := Hdlc.shiftBits_behindFlag h _
  have hheld : h.rxCnt.toNat ≤ 1 → (h.shiftBits (List.replicate 6 true)).rxFrame = h.rxFrame := fun hcnt => by
    rw [Hdlc.shiftBits_of_le _ (by rw [List.length_replicate]; omega)]
  rw [hrun] at hones
  generalize h.shiftBits (List.replicate 6 true) = k at hones hdrop hheld
  have hflag := Hdlc.rxBit_zero_flag (h := k.withOnes 6) rfl
  rw [show (k.withOnes 6).behindFlag = h.behindFlag from hdrop] at hflag
  exact ⟨k.rxFrame, hheld, hones.ends hflag⟩

/-- R105: a flag ends the frame in progress, unless the 1s before it are six; behind whole octets these are the frame. -/
theorem Hdlc.ends_flag (h6 : h.rxOnes ≠ 6) :
    ∃ f, (h.rxCnt = 0 → f = h.rxFrame) ∧ h.Ends flagBits h.behindFlag (.frame f) := by
  obtain ⟨m, hzero, hones, hdrop, hheld⟩ : ∃ m, h.rxBit false = (m, .none) ∧ m.rxOnes = 0
      ∧ m.behindFlag = h.behindFlag ∧ (h.rxCnt = 0 → m.rxFrame = h.rxFrame ∧ m.rxCnt.toNat ≤ 1) := by
    by_cases h5 : h.rxOnes = 5
    · exact ⟨_, Hdlc.rxBit_zero_stuffed h5, rfl, rfl, fun hcnt => ⟨rfl, by simp [Hdlc.withOnes, hcnt]⟩⟩
    · refine ⟨_, Hdlc.rxBit_zero_shift h5 h6, rfl, Hdlc.shift_behindFlag h false, fun hcnt => ?_⟩
      simp [Hdlc.shift, Hdlc.withOnes, hcnt]
  obtain ⟨f, hf, htail⟩ := Hdlc.ends_flagTail hones
  rw [hdrop] at htail
  refine ⟨f, fun hcnt => ?_, (Hdlc.collects_of_rxBit hzero).append_ends htail⟩
  obtain ⟨hframe, hle⟩ := hheld hcnt
  rw [hf hle, hframe]

/-- R109: right behind a flag, stuffed octets and a flag give the octets. -/
theorem Hdlc.ends_stuffed (hh : h.behindFlag = h) (os : List Octet) :
    h.Ends (stuffBits 0 (octetsBits os) ++ flagBits) h (.frame os) := by
  obtain ⟨hones, hframe, hcur, hcnt⟩ : h.rxOnes = 0 ∧ h.rxFrame = [] ∧ h.rxCur = 0 ∧ h.rxCnt = 0 := by
    rw [← hh]
    exact ⟨rfl, rfl, rfl, rfl⟩
  obtain ⟨n, hn, hcollects⟩ := Hdlc.collects_stuffBits (h := h) (by rw [hones]; decide) (octetsBits os)
  rw [Hdlc.shiftBits_octetsBits hcur hcnt, hones, hframe] at hcollects
  obtain ⟨f, hf, hflag⟩ := Hdlc.ends_flag (h := Hdlc.withOnes { h with rxFrame := [] ++ os } n)
    (by show n ≠ 6; bv_omega)
  have hos : f = os := hf hcnt
  have hback : (Hdlc.withOnes { h with rxFrame := [] ++ os } n).behindFlag = h := hh
  rw [hos, hback] at hflag
  exact hcollects.append_ends hflag

/-- R105: right behind a flag, a flag gives no octets. -/
theorem Hdlc.ends_flag_behindFlag (hh : h.behindFlag = h) : h.Ends flagBits h (.frame []) :=
  Hdlc.ends_stuffed hh []

/-! ### The round trip -/

/-- R105: H.RXBIT of several bits that give no result. -/
theorem execAll_hRxbits_collects (hw : s.written.h = true) {bits : List Bool} (hc : s.h.Collects bits k) :
    ∃ a, execAll (bits.map .hRxbit) s = some ({ s with h := k, result := a }, List.replicate bits.length .none) := by
  induction bits generalizing s with
  | nil => exact ⟨s.result, by rw [show k = s.h from hc]; rfl⟩
  | cons b bs ih =>
    obtain ⟨m, hb, hbs⟩ := hc
    have hexec := exec_hRxbit_of_rxBit hw hb
    simp only [hdlcEvents, hdlcAnswer, List.append_nil] at hexec
    obtain ⟨a, hrest⟩ := ih (s := { s with h := m, result := .none }) hw hbs
    exact ⟨a, by rw [List.map_cons, execAll_cons hexec, hrest]; rfl⟩

/-- R105: H.RXBIT of several bits that give a result at the last of them. -/
theorem execAll_hRxbits_ends (hw : s.written.h = true) {bits : List Bool} (he : s.h.Ends bits k r) :
    execAll (bits.map .hRxbit) s = some
      ({ s with h := k, trace := s.trace ++ hdlcEvents r, result := hdlcAnswer r },
        List.replicate (bits.length - 1) .none ++ [hdlcAnswer r]) := by
  obtain ⟨as, b, m, rfl, has, hb⟩ := he
  obtain ⟨a, hrest⟩ := execAll_hRxbits_collects hw has
  have hexec := exec_hRxbit_of_rxBit (s := { s with h := m, result := a }) hw hb
  rw [List.map_append, execAll_append hrest, List.map_singleton, execAll_cons hexec, List.length_append,
    List.length_singleton, Nat.add_sub_cancel]
  rfl

/-- R104, R107: H.SENDFRAME of a reset H queues the frame alone. -/
theorem execAll_reset_sendframe (s : State) (f : List Octet) :
    ∃ t, execAll [.hReset, .hSendframe f] s = some (t, [.none, .none]) ∧ t.written.h = true ∧ t.trace = s.trace
      ∧ t.h.lineBits = frameBits (withFcs f) ∧ t.h.behindFlag = t.h := by
  have hreset : exec .hReset s
      = .next { s with h := Hdlc.atReset, written := { s.written with h := true }, result := .none } := rfl
  have hsend := exec_hSendframe
    (s := { s with h := Hdlc.atReset, written := { s.written with h := true }, result := .none }) rfl f
  obtain ⟨hline, -, -, hrx⟩ := Hdlc.sendFrame_queued Hdlc.atReset_inv f
  generalize Hdlc.atReset.sendFrame f = k at hsend hline hrx
  have hbehind : k.behindFlag = k := by
    rw [hrx]
    rfl
  refine ⟨{ s with h := k, written := { s.written with h := true }, result := .none }, ?_, rfl, rfl, hline, hbehind⟩
  rw [execAll_cons hreset, execAll_cons hsend]
  rfl

/-- R109: H.RXBIT of a frame's line bits, right behind a flag. -/
theorem execAll_hRxbits_frameBits (hw : s.written.h = true) (hh : s.h.behindFlag = s.h) (os : List Octet) :
    ∃ n, execAll ((frameBits os).map .hRxbit) s = some
      ({ s with result := .frame os }, List.replicate 7 .none ++ .frame [] :: (List.replicate n .none ++ [.frame os])) := by
  have hopen := execAll_hRxbits_ends hw (Hdlc.ends_flag_behindFlag hh)
  have hclose := execAll_hRxbits_ends (s := { s with result := .frame [] }) hw (Hdlc.ends_stuffed hh os)
  simp only [hdlcEvents, hdlcAnswer, List.append_nil] at hopen hclose
  refine ⟨(stuffBits 0 (octetsBits os) ++ flagBits).length - 1, ?_⟩
  rw [frameBits, List.map_append, execAll_append hopen, hclose]
  rfl

/-- Settles O14: `execAll_reset_sendframe` says which bits are queued, `execAll_hRxbits_frameBits` what H.RXBIT answers. -/
theorem hdlcRoundTrip : Obligations.HdlcRoundTrip := by
  intro s f
  obtain ⟨t, hsend, hw, htrace, hline, hh⟩ := execAll_reset_sendframe s f
  obtain ⟨n, hrx⟩ := execAll_hRxbits_frameBits hw hh (withFcs f)
  rw [← hline] at hrx
  exact ⟨t, _, _, _, n, _, hsend, hline, not_sixOnes_infix_stuffBits _ (Nat.zero_le 4), hrx, rfl, checkFcs_withFcs f,
    htrace⟩

end Sys2Proof.Machine
end

section
/-!
SUPPORT. Line bits where they go to unit H (42_lapm.md R126, R129, R132): what H makes of the bits is what L handles. Flags and
aborts there and in Release.
-/

namespace Sys2Proof.Machine

variable {s : State} {now : Nat} {h k : Hdlc} {r : HdlcResult} {bits : List Bool}

/-! ### Where bits go to H -/

/-- R129, R130: L waits for a flag: Detection after ADP and before expiry. -/
def State.awaitsFlag (s : State) (now : Nat) : Prop :=
  s.l.phase = .detection ∧ s.l.adpSent = true ∧ now < s.l.detStart + 750

/-- R126: bits go to H at time `now`. -/
def State.readsH (s : State) (now : Nat) : Prop := s.handlesFrames ∨ s.awaitsFlag now

theorem State.handlesFrames.phase_ne_detection (hh : s.handlesFrames) : s.l.phase ≠ .detection := by
  rcases hh with hp | hp
  · simp [hp]
  · simp [hp]

/-- R126: H has the line, and what it makes of the bit is handled. -/
theorem State.lRxBit_hdlc (hr : s.readsH now) (b : Bool) :
    s.lRxBit b now = (s.setH (s.h.rxBit b).1).onHdlc (s.h.rxBit b).2 now := by
  rcases hr with hh | ⟨hp, hadp, ht⟩
  · unfold State.lRxBit
    rw [checkDetectionTimer_of_ne hh.phase_ne_detection]
    rcases hh with hp | hp
    · simp only [hp, State.hBit]
    · simp only [hp, State.hBit]
  · simp only [State.lRxBit, checkDetectionTimer_of_lt (show now < s.l.detStart + Config.t400 from ht), hp, hadp, if_true,
      State.hBit]

theorem State.onHdlc_none (s : State) (now : Nat) : s.onHdlc .none now = s := by
  unfold State.onHdlc
  cases s.l.phase with
  | none | detection | establish | connected | release | v14 => rfl

/-- R132: Establish and Connected. -/
theorem State.onHdlc_frame_handled (hh : s.handlesFrames) (f : List Octet) :
    s.onHdlc (.frame f) now = s.handleFrame f now := by
  rcases hh with hp | hp
  · simp only [State.onHdlc, hp]
  · simp only [State.onHdlc, hp]

/-- R129: any frame is the flag waited for. -/
theorem State.onHdlc_frame_awaited (hp : s.l.phase = .detection) (f : List Octet) :
    s.onHdlc (.frame f) now = s.enterEstablish now := by
  simp only [State.onHdlc, hp]

/-- R129, R132: an abort is logged in Establish and Connected, not while L waits for a flag. -/
theorem State.onHdlc_abort (hr : s.readsH now) :
    s.onHdlc .abort now = { s with trace := s.trace ++ if s.l.phase = .detection then [] else [.abort] } := by
  rcases hr with (hp | hp) | ⟨hp, -, -⟩
  · simp only [State.onHdlc, hp, reduceCtorEq, if_false]
    rfl
  · simp only [State.onHdlc, hp, reduceCtorEq, if_false]
    rfl
  · simp only [State.onHdlc, hp, if_true, List.append_nil]

/-- R126: bits that give no result change H alone. -/
theorem State.lRxBits_collects (hr : s.readsH now) (hf : s.l.fault = none) (hc : s.h.Collects bits k) :
    s.lRxBits now bits = s.setH k := by
  induction bits generalizing s with
  | nil =>
    rw [show k = s.h from hc]
    rfl
  | cons b bs ih =>
    obtain ⟨m, hb, hbs⟩ := hc
    have hbit : s.lRxBit b now = s.setH m := by rw [State.lRxBit_hdlc hr, hb, State.onHdlc_none]
    rw [State.lRxBits, hbit, if_neg (by simp [hf])]
    exact ih (s := s.setH m) hr hf hbs

/-- R126, R129, R132: the result that bits end with is handled, H being behind them. -/
theorem State.lRxBits_ends (hr : s.readsH now) (hf : s.l.fault = none) (he : s.h.Ends bits k r) :
    s.lRxBits now bits = (s.setH k).onHdlc r now := by
  obtain ⟨as, b, m, rfl, has, hb⟩ := he
  have hquiet := State.lRxBits_collects hr hf has
  rw [State.lRxBits_append _ _ _ _ (by rw [hquiet]; exact hf), hquiet, State.lRxBits_singleton,
    State.lRxBit_hdlc (s := s.setH m) hr, State.setH_h, hb]
  rfl

/-- R126: in Release bits are dropped. -/
theorem State.lRxBits_release (hp : s.l.phase = .release) (hf : s.l.fault = none) (bits : List Bool) :
    s.lRxBits now bits = s := by
  induction bits with
  | nil => rfl
  | cons b bs ih =>
    have hbit : s.lRxBit b now = s := by
      simp only [State.lRxBit, checkDetectionTimer_of_ne (show s.l.phase ≠ .detection by simp [hp]), hp]
    rw [State.lRxBits, hbit, if_neg (by simp [hf])]
    exact ih

/-! ### Flags -/

/-- R132: fewer than four octets are dropped without an event. -/
theorem State.handleFrame_of_lt {f : List Octet} (hlen : f.length < 4) : s.handleFrame f now = s := by
  simp only [State.handleFrame, if_pos hlen]

/-- R105, R132: in Establish and Connected bits that end with fewer than four octets change H alone. -/
theorem State.lRxBits_ends_short (hh : s.handlesFrames) (hf : s.l.fault = none) {f : List Octet} (hlen : f.length < 4)
    (he : s.h.Ends bits k (.frame f)) : s.lRxBits now bits = s.setH k := by
  rw [State.lRxBits_ends (.inl hh) hf he, State.onHdlc_frame_handled (s := s.setH k) hh, State.handleFrame_of_lt hlen]

/-- R129: the flag waited for, whatever stands before it. Behind six 1s its first 0 ends a flag already. -/
theorem State.lRxBits_flag_awaited (hw : s.awaitsFlag now) (hf : s.l.fault = none) :
    s.lRxBits now flagBits = (s.setH s.h.behindFlag).enterEstablish now := by
  by_cases h6 : s.h.rxOnes = 6
  · have hzero : s.h.Ends [false] s.h.behindFlag (.frame s.h.rxFrame) :=
      Hdlc.Collects.ends (as := []) rfl (Hdlc.rxBit_zero_flag h6)
    have hfirst := State.lRxBits_ends (.inr hw) hf hzero
    rw [State.onHdlc_frame_awaited (s := s.setH s.h.behindFlag) hw.1] at hfirst
    obtain ⟨f, hheld, htail⟩ := Hdlc.ends_flagTail (h := s.h.behindFlag) rfl
    have hempty : f = [] := hheld (Nat.zero_le 1)
    rw [show flagBits = [false] ++ (List.replicate 6 true ++ [false]) from rfl,
      State.lRxBits_append _ _ _ _ (by rw [hfirst]; exact hf), hfirst]
    exact State.lRxBits_ends_short (.inl rfl) hf (by simp [hempty]) htail
  · obtain ⟨f, -, hflag⟩ := Hdlc.ends_flag h6
    rw [State.lRxBits_ends (.inr hw) hf hflag, State.onHdlc_frame_awaited (s := s.setH s.h.behindFlag) hw.1]

/-! ### Aborts -/

/-- R105: behind an abort further 1s are ignored. -/
theorem Hdlc.collects_ones_ignored (h7 : h.rxOnes = 7) (n : Nat) : h.Collects (List.replicate n true) h := by
  induction n with
  | zero => rfl
  | succ n ih => exact ⟨h, Hdlc.rxBit_one_ignored h7, ih⟩

/-- R105: the seventh 1 is an abort. -/
theorem Hdlc.ends_abort (h7 : h.rxOnes ≠ 7) :
    h.Ends (List.replicate (7 - h.rxOnes.toNat) true) h.aborted .abort := by
  have hle : h.rxOnes.toNat ≤ 6 := by bv_omega
  have hones := Hdlc.collects_ones (h := h) (6 - h.rxOnes.toNat) (by omega)
  have hrun : h.rxOnes + BitVec.ofNat 3 (6 - h.rxOnes.toNat) = 6 := by bv_omega
  have hdrop := Hdlc.shiftBits_behindFlag h (List.replicate (6 - h.rxOnes.toNat) true)
  rw [hrun] at hones
  generalize h.shiftBits _ = k at hones hdrop
  have habort := Hdlc.rxBit_one_abort (h := k.withOnes 6) rfl
  rw [show (k.withOnes 6).aborted = h.aborted from congrArg (·.withOnes 7) hdrop] at habort
  have hlen : 7 - h.rxOnes.toNat = 6 - h.rxOnes.toNat + 1 := by omega
  rw [hlen, List.replicate_succ']
  exact hones.ends habort

/-- R105, R132: seven or more 1s abort once, unless the abort is already taken. -/
theorem State.lRxBits_abort (hr : s.readsH now) (hf : s.l.fault = none) (h7 : s.h.rxOnes ≠ 7) {ones : Nat}
    (hones : 7 ≤ ones) :
    s.lRxBits now (List.replicate ones true) = { s with
      h := s.h.aborted, trace := s.trace ++ if s.l.phase = .detection then [] else [.abort] } := by
  obtain ⟨rest, hcut⟩ := Nat.exists_eq_add_of_le (show 7 - s.h.rxOnes.toNat ≤ ones by omega)
  have hfirst := State.lRxBits_ends hr hf (Hdlc.ends_abort h7)
  rw [State.onHdlc_abort (s := s.setH s.h.aborted) hr] at hfirst
  rw [hcut, List.replicate_add, State.lRxBits_append _ _ _ _ (by rw [hfirst]; exact hf), hfirst]
  exact State.lRxBits_collects (by exact hr) (by exact hf) (Hdlc.collects_ones_ignored (by rfl) rest)

/-- Settles O29: a flag by what `ends_flag` gives in each phase, an abort by `lRxBits_abort`, and Release by
`lRxBits_release`. -/
theorem flagAndAbortOnLine : Obligations.FlagAndAbortOnLine := by
  intro s ones now hs hones
  refine ⟨fun hw => ?_, fun hh h5 h6 hcnt hlen => ?_, fun hp => ⟨?_, ?_⟩, fun hr => ?_⟩
  · exact lineArrives_of_noFault hs (State.lRxBits_flag_awaited hw hs.2) hs.2
  · obtain ⟨f, hheld, hflag⟩ := Hdlc.ends_flag h6
    rw [← hheld hcnt] at hlen
    exact lineArrives_of_noFault hs (State.lRxBits_ends_short hh hs.2 hlen hflag) hs.2
  · exact lineArrives_of_noFault hs (State.lRxBits_release hp hs.2 _) hs.2
  · exact lineArrives_of_noFault hs (State.lRxBits_release hp hs.2 _) hs.2
  · split
    · next h7 =>
      exact lineArrives_of_noFault hs (State.lRxBits_collects hr hs.2 (Hdlc.collects_ones_ignored h7 ones)) hs.2
    · next h7 => exact lineArrives_of_noFault hs (State.lRxBits_abort hr hs.2 h7 hones) hs.2

end Sys2Proof.Machine
end

section
/-!
SUPPORT. A frame on the line against its control field's row (42_lapm.md R132; logs 8 and 11): the row is the frame without the
octets that R132 ignores, and the frame is handled as that row.
-/

namespace Sys2Proof.Machine

variable {s : State} {now : Nat}

/-! ### The frame on the line -/

/-- R105: with nothing received H is as it is behind a flag. -/
theorem Hdlc.behindFlag_of_empty {h : Hdlc} (hones : h.rxOnes = 0) (hcur : h.rxCur = 0) (hcnt : h.rxCnt = 0)
    (hframe : h.rxFrame = []) : h.behindFlag = h := by
  cases h
  cases hones
  cases hcur
  cases hcnt
  cases hframe
  rfl

/-- R105, R132: right behind a flag, in Establish and Connected, a frame's line bits have the frame handled. -/
theorem State.lRxBits_frameBits (hh : s.handlesFrames) (hf : s.l.fault = none) (hb : s.h.behindFlag = s.h)
    (f : List Octet) : s.lRxBits now (frameBits f) = s.handleFrame f now := by
  have hopen : s.lRxBits now flagBits = s :=
    State.lRxBits_ends_short hh hf (f := []) (Nat.zero_lt_succ 3) (Hdlc.ends_flag_behindFlag hb)
  rw [frameBits, State.lRxBits_append _ _ _ _ (by rw [hopen]; exact hf), hopen,
    State.lRxBits_ends (.inl hh) hf (Hdlc.ends_stuffed hb f)]
  exact State.onHdlc_frame_handled hh f

/-! ### Control octets -/

/-- R56, R57: a control octet is its seven high bits and bit 0. -/
theorem seqOctet_seqField (c : Octet) : seqOctet (seqField c) (c.getLsbD 0) = c := by
  revert c
  decide +kernel

/-- R58: a control octet is its code and bit 4. -/
theorem uOctet_uCode (c : Octet) : uOctet (uCode c) (uPf c) = c := by
  revert c
  decide +kernel

/-! ### The rows of S and U frames -/

/-- R57: whatever its code, an S frame's row is that frame. -/
theorem exec_decodeS (addr c : Octet) (nr : SeqNum) (pf : Bool) :
    exec (decodeS s.cfg addr c nr pf now) s = frameArrives (sFrameOctets addr c nr pf) now s := by
  unfold decodeS
  split_ifs with hrr hrnr hrej hsrej
  · rw [hrr]
    rfl
  · rw [hrnr]
    rfl
  · rw [hrej]
    rfl
  · rw [hsrej]
    rfl
  · rfl

/-- R58: whatever its code, a U frame's row is that frame; XID alone carries its information field. -/
theorem exec_decodeU (addr code : Octet) (pf : Bool) (info : List Octet) :
    exec (decodeU s.cfg addr code pf info now) s
      = frameArrives (uFrameOctets addr code pf (if code = s.cfg.ctlXid then info else [])) now s := by
  unfold decodeU
  split_ifs with hxid hsabme hdisc hua
  · rw [hxid]
    rfl
  · rw [hsabme]
    rfl
  · rw [hdisc]
    rfl
  · rw [hua]
    rfl
  · rfl

/-! ### What R132 ignores -/

/-- R132: of an S frame only the control field is read. -/
theorem State.handleFrame_s (addr : Octet) {c : Octet} (h0 : c.getLsbD 0 = true) (h1 : c.getLsbD 1 = false) (c2 : Octet)
    (rest : List Octet) :
    s.handleFrame (withFcs (addr :: c :: c2 :: rest)) now = s.handleS c (seqField c2) now := by
  have hctl : (withFcs (addr :: c :: c2 :: rest)).getD 1 0 = c := rfl
  have hctl2 : (withFcs (addr :: c :: c2 :: rest)).getD 2 0 = c2 := rfl
  have h4 : ¬ (withFcs (addr :: c :: c2 :: rest)).length < 4 := by simp [withFcs, fcsOctets]
  have h5 : ¬ (withFcs (addr :: c :: c2 :: rest)).length < 5 := by simp [withFcs, fcsOctets]
  simp only [State.handleFrame, hctl, hctl2, h0, h1, checkFcs_withFcs, if_neg h4, if_neg h5, Bool.not_true,
    Bool.false_eq_true, Bool.true_eq_false, if_false, if_true]

/-- R132: of a U frame other than XID only the control octet is read. -/
theorem State.handleFrame_u_info (addr : Octet) {code : Octet} (hc : Params.isUCode code = true) (pf : Bool)
    (info : List Octet) :
    s.handleFrame (uFrameOctets addr code pf (if code = s.cfg.ctlXid then info else [])) now
      = s.handleFrame (uFrameOctets addr code pf info) now := by
  split_ifs with hxid
  · rfl
  · have hctl : ∀ l, (uFrameOctets addr code pf l).getD 1 0 = uOctet code pf := fun _ => rfl
    have haddr : ∀ l, (uFrameOctets addr code pf l).getD 0 0 = addr := fun _ => rfl
    obtain ⟨-, -, hcode, -⟩ := uOctet_fields hc pf
    rw [State.handleFrame_u hc, State.handleFrame_u hc]
    simp only [State.handleU, hctl, haddr, hcode, if_neg hxid]

/-- Log 8: a frame's octets decode to the row that is handled as the frame is. -/
theorem exec_of_decodeFrame {octets : List Octet} {i : Instr} (hd : decodeFrame s.cfg octets now = .ok i) :
    ∃ f, exec i s = frameArrives f now s ∧ s.handleFrame f now = s.handleFrame (withFcs octets) now := by
  unfold decodeFrame at hd
  split at hd
  · next addr c rest =>
    split_ifs at hd with h0 h1
    · cases rest with
      | nil => cases hd
      | cons c2 info =>
        cases hd
        refine ⟨iFrameOctets addr (seqField c) (seqField c2) (c2.getLsbD 0) info, rfl, ?_⟩
        rw [iFrameOctets, ← h0, seqOctet_seqField, seqOctet_seqField]
    · cases rest with
      | nil => cases hd
      | cons c2 info =>
        cases hd
        refine ⟨_, exec_decodeS addr c _ _, ?_⟩
        rw [sFrameOctets, seqOctet_seqField, State.handleFrame_s addr (eq_true_of_ne_false h0) h1,
          State.handleFrame_s addr (eq_true_of_ne_false h0) h1]
    · cases hd
      refine ⟨_, exec_decodeU addr _ _ rest, ?_⟩
      rw [State.handleFrame_u_info addr (isUCode_uCode (eq_true_of_ne_false h0) (eq_true_of_ne_false h1)), uFrameOctets,
        uOctet_uCode]
  · cases hd

/-! ### The row in the other phases -/

/-- Logs 11 and 12: a control-field row or an XID item is a frame that is handed to L. -/
theorem exec_of_frameTime {i : Instr} (hi : frameTime i = some now) : ∃ f, exec i s = frameArrives f now s := by
  cases i with
  | iFrame | rr | rnr | rej | srej | sOther | sabme | disc | ua | xid | uOther | xidFi | xidGroupPublic
  | xidGroupPrivate | xidGroupUserdata | xidParamTxsize | xidParamWindow | xidParamCompreq =>
    cases hi
    exact ⟨_, rfl⟩
  | _ => cases hi

/-- Behind its refusals a frame that raises no fault answers nothing (R126, log 11). -/
theorem frameArrives_of_noFault (hs : s.pumpsOpen) {f : List Octet} {t : State} (ht : s.lFrame f now = t)
    (hf : t.l.fault = none) : frameArrives f now s = .next { t with result := .none } := by
  rw [frameArrives_open hs.1 hs.2, ht, hf]
  rfl

/-- R129: while L waits for a flag a frame is that flag. -/
theorem State.lFrame_awaited (hw : s.awaitsFlag now) (f : List Octet) : s.lFrame f now = s.enterEstablish now := by
  obtain ⟨hp, hadp, ht⟩ := hw
  simp only [State.lFrame, checkDetectionTimer_of_lt (show now < s.l.detStart + Config.t400 from ht), State.readsHdlc, hp,
    hadp, if_true, State.onHdlc_frame_awaited hp]

/-- R130: at the timer's expiry a frame finds L in phase V14. -/
theorem State.lFrame_expired (hp : s.l.phase = .detection) (ht : s.l.detStart + 750 ≤ now) (f : List Octet) :
    s.lFrame f now = s.setL { s.l with phase := .v14 } := by
  have htimer : s.checkDetectionTimer now = s.setL { s.l with phase := .v14 } :=
    if_pos ⟨hp, decide_eq_true ht⟩
  rw [State.lFrame, htimer]
  rfl

/-- R126: where bits do not go to H there is no frame. -/
theorem State.lFrame_unread
    (h : s.l.phase = .v14 ∨ s.l.phase = .release
      ∨ (s.l.adpSent = false ∧ (s.l.phase = .none ∨ (s.l.phase = .detection ∧ now < s.l.detStart + 750))))
    (f : List Octet) : s.lFrame f now = s := by
  have hskip : ∀ t : State, t.readsHdlc = false → (if t.readsHdlc then t.onHdlc (.frame f) now else t) = t :=
    fun t ht => if_neg (by simp [ht])
  unfold State.lFrame
  rcases h with hp | hp | ⟨hadp, hp | ⟨hp, ht⟩⟩
  · rw [checkDetectionTimer_of_ne (by simp [hp])]
    exact hskip s (by simp only [State.readsHdlc, hp])
  · rw [checkDetectionTimer_of_ne (by simp [hp])]
    exact hskip s (by simp only [State.readsHdlc, hp])
  · rw [checkDetectionTimer_of_ne (by simp [hp])]
    exact hskip s (by simp only [State.readsHdlc, hp, hadp])
  · rw [checkDetectionTimer_of_lt (show now < s.l.detStart + Config.t400 from ht)]
    exact hskip s (by simp only [State.readsHdlc, hp, hadp])

/-- Settles O27: the line bits by `lRxBits_frameBits`, the row by `exec_of_decodeFrame`, and the other phases by what
`lFrame` does there. -/
theorem frameOnLineIsHandled : Obligations.FrameOnLineIsHandled := by
  intro s i octets now hs
  refine ⟨fun hh _ hones hcur hcnt hframe hd => ?_, fun hi => ?_⟩
  · obtain ⟨f, hrow, hsame⟩ := exec_of_decodeFrame hd
    have hb := Hdlc.behindFlag_of_empty hones hcur hcnt hframe
    have hline : exec (.frame (withFcs octets) now) s = _ := lineArrives_open hs.1 hs.2
    refine ⟨_, hline, ?_⟩
    rw [hrow, frameArrives_open hs.1 hs.2, State.lFrame_of_handlesFrames hh, hsame, State.lRxBits_frameBits hh hs.2 hb]
  · obtain ⟨f, hrow⟩ := exec_of_frameTime (s := s) hi
    rw [hrow]
    exact ⟨fun hp ht hadp => frameArrives_of_noFault hs (State.lFrame_awaited ⟨hp, hadp, ht⟩ f) hs.2,
      fun hp ht => frameArrives_of_noFault hs (State.lFrame_expired hp ht f) hs.2,
      fun hp => frameArrives_of_noFault hs (State.lFrame_unread hp f) hs.2⟩

end Sys2Proof.Machine
end

section
/-!
SUPPORT. The phase of L (42_lapm.md R123): what the procedures of L make of it, and that an operation of the host or a frame
makes at most one transition of the table.
-/

namespace Sys2Proof.Machine

variable {s t : State} {now : Nat}

/-! ### The table (R123) -/

/-- R123: the phase stays, or makes a transition of the table. -/
def Phase.Steps (a b : Phase) : Prop :=
  b = a ∨ (a, b) ∈
    [(Phase.none, Phase.detection), (.none, .v14), (.detection, .v14), (.detection, .establish),
      (.establish, .connected), (.establish, .release), (.connected, .release)]

theorem Phase.Steps.refl (a : Phase) : a.Steps a := .inl rfl

theorem Phase.Steps.of_eq {a b : Phase} (h : b = a) : a.Steps b := .inl h

/-- R131, R151: no transition leaves V14 or Release. -/
theorem Phase.Steps.eq_of_settled {a b : Phase} (h : a.Steps b) (ha : a = .v14 ∨ a = .release) : b = a := by
  rcases h with h | h
  · exact h
  · rcases ha with rfl | rfl
    · simp at h
    · simp at h

/-! ### Procedures that keep the phase -/

@[simp] theorem State.lSend_phase (f : List Octet) : (s.lSend f now).l.phase = s.l.phase := by rw [State.lSend_eq]

@[simp] theorem State.ackIFrame_phase (nr : SeqNum) : (s.ackIFrame nr).l.phase = s.l.phase := by rw [State.ackIFrame_eq]

@[simp] theorem State.handleReject_phase (nr : SeqNum) : (s.handleReject nr now).l.phase = s.l.phase := by
  rw [State.handleReject_eq]
  split
  · rw [State.resendFrom_eq]
    exact State.ackIFrame_phase nr
  · rfl

@[simp] theorem State.deliverAll_phase (xs : List Octet) : (s.deliverAll xs).l.phase = s.l.phase := by
  rw [State.deliverAll_eq]

@[simp] theorem State.replyRr_phase (addr : Octet) (p : Bool) : (s.replyRr addr p now).l.phase = s.l.phase := by
  unfold State.replyRr
  split
  · exact State.lSend_phase _
  · rfl

@[simp] theorem State.handleIFrame_phase (f : List Octet) : (s.handleIFrame f now).l.phase = s.l.phase := by
  unfold State.handleIFrame
  dsimp only
  split_ifs
  · simp
  · simp
  · simp

theorem xidParamsEffect_phase (p : Params) (gi : Octet) (l : Lapm) (ps : List XidParam) :
    (xidParamsEffect p gi l ps).1.phase = l.phase := by
  induction ps generalizing l with
  | nil => rfl
  | cons x xs ih =>
    refine (ih _).trans ?_
    unfold xidParamEffect
    split_ifs <;> rfl

/-- R146: an XID's effects leave the phase. -/
theorem xidEffect_phase (p : Params) (l : Lapm) (gs : List XidGroup) : (xidEffect p l gs).1.phase = l.phase := by
  induction gs generalizing l with
  | nil => rfl
  | cons g gs ih =>
    refine (ih _).trans ?_
    cases g with
    | params gi ps => exact xidParamsEffect_phase p gi l ps
    | skipped gi content => rfl

@[simp] theorem State.handleXid_phase (f : List Octet) : (s.handleXid f now).l.phase = s.l.phase := by
  unfold State.handleXid
  split
  · rfl
  · exact (State.lSend_phase _).trans (xidEffect_phase _ _ _)

@[simp] theorem State.handleS_phase (c : Octet) (nr : SeqNum) : (s.handleS c nr now).l.phase = s.l.phase := by
  unfold State.handleS
  split_ifs
  · exact State.ackIFrame_phase nr
  · exact State.ackIFrame_phase nr
  · exact State.handleReject_phase nr
  · rfl

@[simp] theorem State.passBit_phase (b : Bool) : (s.passBit b).l.phase = s.l.phase := by
  rw [State.passBit, State.vBit_eq]
  cases (s.v.rxBit b).char with
  | none | some => rfl

@[simp] theorem State.nextChar_phase (c : Octet) (n : Nat) : (s.nextChar c n).l.phase = s.l.phase := by
  unfold State.nextChar
  dsimp only
  split
  · exact Lapm.countOdp_phase _ _ _
  · exact Lapm.countOdp_phase _ _ _

/-! ### Procedures that change it -/

/-- R137, R138: in Establish and Connected SABME leads to Connected and DISC to Release; no other U frame matters. -/
theorem State.handleU_steps (hh : s.handlesFrames) (f : List Octet) : s.l.phase.Steps (s.handleU f now).l.phase := by
  have hconnected : s.l.phase.Steps .connected := by
    rcases hh with hp | hp <;> simp [Phase.Steps, hp]
  have hrelease : s.l.phase.Steps .release := by
    rcases hh with hp | hp <;> simp [Phase.Steps, hp]
  unfold State.handleU
  dsimp only
  split_ifs
  · exact hconnected
  · exact hrelease
  · exact .of_eq (State.handleXid_phase f)
  · exact .refl _

/-- R132: of a handled frame only a U frame changes the phase. -/
theorem State.handleFrame_steps (hh : s.handlesFrames) (f : List Octet) :
    s.l.phase.Steps (s.handleFrame f now).l.phase := by
  unfold State.handleFrame
  dsimp only
  split_ifs
  · exact .refl _
  · exact .refl _
  · exact .refl _
  · exact .of_eq (State.handleIFrame_phase f)
  · exact .refl _
  · exact .of_eq (State.handleS_phase _ _)
  · exact State.handleU_steps hh f

/-- R127: the first character leads to Detection or V14; a bit that completes none leaves phase None. -/
theorem State.detectBit_steps_none (hp : s.l.phase = .none) (b : Bool) :
    Phase.none.Steps (s.detectBit b now).l.phase := by
  rw [State.detectBit, State.vBit_eq]
  cases (s.v.rxBit b).char with
  | none => exact .of_eq hp
  | some c =>
    dsimp only
    rw [if_pos (by exact hp), State.firstChar]
    split
    · simp [Phase.Steps]
    · simp [Phase.Steps]

/-- R127: characters in phase Detection do not end it. -/
theorem State.detectBit_phase_detection (hp : s.l.phase = .detection) (b : Bool) :
    (s.detectBit b now).l.phase = .detection := by
  rw [State.detectBit, State.vBit_eq]
  cases (s.v.rxBit b).char with
  | none => exact hp
  | some c =>
    dsimp only
    rw [if_neg (by simp [hp]), State.nextChar_phase]
    exact hp

/-- R129: while L waits for a flag, H's answer keeps Detection or leads to Establish. -/
theorem State.onHdlc_phase_detection (hp : s.l.phase = .detection) (r : HdlcResult) :
    (s.onHdlc r now).l.phase = .detection ∨ (s.onHdlc r now).l.phase = .establish := by
  cases r with
  | frame f =>
    rw [State.onHdlc_frame_awaited hp]
    exact .inr rfl
  | abort | none =>
    simp only [State.onHdlc, hp, true_or]

/-- R132: in Establish and Connected only a frame can change the phase. -/
theorem State.onHdlc_steps_handled (hh : s.handlesFrames) (r : HdlcResult) :
    s.l.phase.Steps (s.onHdlc r now).l.phase := by
  cases r with
  | frame f =>
    rw [State.onHdlc_frame_handled hh]
    exact State.handleFrame_steps hh f
  | abort =>
    rw [State.onHdlc_abort (.inl hh)]
    exact .refl _
  | none =>
    rw [State.onHdlc_none]
    exact .refl _

/-! ### The detection timer (R130) -/

/-- R130: the timer has expired in Detection. -/
theorem checkDetectionTimer_expired (hp : s.l.phase = .detection) (ht : s.l.detStart + 750 ≤ now) :
    s.checkDetectionTimer now = s.setL { s.l with phase := .v14 } :=
  if_pos ⟨hp, decide_eq_true ht⟩

/-- R130: at expiry L.RXBIT acts as in phase V14. -/
theorem State.lRxBit_expired (hp : s.l.phase = .detection) (ht : s.l.detStart + 750 ≤ now) (b : Bool) :
    s.lRxBit b now = (s.setL { s.l with phase := .v14 }).lRxBit b now := by
  unfold State.lRxBit
  rw [checkDetectionTimer_expired hp ht, checkDetectionTimer_of_ne (show Phase.v14 ≠ .detection by decide)]

/-- R130: at expiry L.TXBIT acts as in phase V14. -/
theorem State.lTxBit_expired (hp : s.l.phase = .detection) (ht : s.l.detStart + 750 ≤ now) :
    s.lTxBit now = (s.setL { s.l with phase := .v14 }).lTxBit now := by
  unfold State.lTxBit
  rw [checkDetectionTimer_expired hp ht, checkDetectionTimer_of_ne (show Phase.v14 ≠ .detection by decide)]

/-! ### The pumps and a frame -/

/-- R131: in phase V14 a received bit keeps it. -/
theorem State.lRxBit_phase_v14 (hp : s.l.phase = .v14) (b : Bool) : (s.lRxBit b now).l.phase = .v14 := by
  rw [State.lRxBit_pass hp, State.passBit_phase, hp]

/-- R151: in Release a received bit is dropped. -/
theorem State.lRxBit_release (hp : s.l.phase = .release) (b : Bool) : s.lRxBit b now = s := by
  simp only [State.lRxBit, checkDetectionTimer_of_ne (show s.l.phase ≠ .detection by simp [hp]), hp]

/-- R127, R129, R130: before expiry a received bit keeps Detection or leads to Establish. -/
theorem State.lRxBit_phase_detection (hp : s.l.phase = .detection) (ht : now < s.l.detStart + 750) (b : Bool) :
    (s.lRxBit b now).l.phase = .detection ∨ (s.lRxBit b now).l.phase = .establish := by
  cases hadp : s.l.adpSent with
  | true =>
    rw [State.lRxBit_hdlc (.inr ⟨hp, hadp, ht⟩)]
    exact State.onHdlc_phase_detection (s := s.setH (s.h.rxBit b).1) hp _
  | false =>
    rw [State.lRxBit_detect hadp (.inr ⟨hp, ht⟩)]
    exact .inl (State.detectBit_phase_detection hp b)

/-- R123: a received bit makes at most one transition of the table; in phase None ADP is not sent. -/
theorem State.lRxBit_steps (hnone : s.l.phase = .none → s.l.adpSent = false) (b : Bool) :
    s.l.phase.Steps (s.lRxBit b now).l.phase := by
  cases hp : s.l.phase with
  | none =>
    rw [State.lRxBit_detect (hnone hp) (.inl hp)]
    exact State.detectBit_steps_none hp b
  | detection =>
    by_cases ht : s.l.detStart + 750 ≤ now
    · rw [State.lRxBit_expired hp ht, State.lRxBit_phase_v14 rfl]
      simp [Phase.Steps]
    · rcases State.lRxBit_phase_detection hp (Nat.lt_of_not_le ht) b with h | h
      · exact .of_eq h
      · simp [Phase.Steps, h]
  | establish | connected =>
    have hh : s.handlesFrames := by simp [State.handlesFrames, hp]
    rw [State.lRxBit_hdlc (.inl hh), ← hp]
    exact State.onHdlc_steps_handled (s := s.setH (s.h.rxBit b).1) hh _
  | v14 => exact .of_eq (State.lRxBit_phase_v14 hp b)
  | release =>
    rw [State.lRxBit_release hp]
    exact .of_eq hp

/-- R131, R151: bits on the line do not leave V14 or Release. -/
theorem State.lRxBits_phase_settled (hp : s.l.phase = .v14 ∨ s.l.phase = .release) (bits : List Bool) :
    (s.lRxBits now bits).l.phase = s.l.phase := by
  induction bits generalizing s with
  | nil => rfl
  | cons b bs ih =>
    have hone : (s.lRxBit b now).l.phase = s.l.phase :=
      (State.lRxBit_steps (by rcases hp with hp | hp <;> simp [hp]) b).eq_of_settled hp
    rw [State.lRxBits]
    split
    · exact hone
    · exact (ih (by rwa [hone])).trans hone

/-- R123, log 11: a frame handed to L makes at most one transition of the table. -/
theorem State.lFrame_steps (hnone : s.l.phase = .none → s.l.adpSent = false) (f : List Octet) :
    s.l.phase.Steps (s.lFrame f now).l.phase := by
  cases hp : s.l.phase with
  | none =>
    rw [State.lFrame_unread (.inr (.inr ⟨hnone hp, .inl hp⟩))]
    exact .of_eq hp
  | detection =>
    by_cases ht : s.l.detStart + 750 ≤ now
    · rw [State.lFrame_expired hp ht]
      simp [Phase.Steps]
    · have ht := Nat.lt_of_not_le ht
      cases hadp : s.l.adpSent with
      | true =>
        rw [State.lFrame_awaited ⟨hp, hadp, ht⟩]
        simp [Phase.Steps, State.enterEstablish]
      | false =>
        rw [State.lFrame_unread (.inr (.inr ⟨hadp, .inr ⟨hp, ht⟩⟩))]
        exact .of_eq hp
  | establish | connected =>
    have hh : s.handlesFrames := by simp [State.handlesFrames, hp]
    rw [State.lFrame_of_handlesFrames hh, ← hp]
    exact State.handleFrame_steps hh f
  | v14 =>
    rw [State.lFrame_unread (.inl hp)]
    exact .of_eq hp
  | release =>
    rw [State.lFrame_unread (.inr (.inl hp))]
    exact .of_eq hp

@[simp] theorem State.refillIdle_phase : s.refillIdle.l.phase = s.l.phase := by
  unfold State.refillIdle
  split <;> rfl

@[simp] theorem State.refillV_phase : s.refillV.l.phase = s.l.phase := by
  unfold State.refillV
  split
  · split <;> rfl
  · rfl

@[simp] theorem State.gather_phase (k : Nat) : (s.gather k).2.l.phase = s.l.phase := by
  unfold State.gather
  split <;> rfl

@[simp] theorem State.refillH_phase : (s.refillH now).l.phase = s.l.phase := by
  unfold State.refillH
  split_ifs
  · simp [State.sendIFrame]
  · exact State.lSend_phase _
  · rfl
  · rfl

@[simp] theorem State.refillRelease_phase : s.refillRelease.l.phase = s.l.phase := by
  unfold State.refillRelease
  split <;> rfl

@[simp] theorem State.popV_phase : s.popV.l.phase = s.l.phase := rfl

@[simp] theorem State.popH_phase : s.popH.l.phase = s.l.phase := rfl

/-- R130, R144: L.TXBIT changes the phase by its timer check alone. -/
theorem State.lTxBit_phase : (s.lTxBit now).1.l.phase = (s.checkDetectionTimer now).l.phase := by
  unfold State.lTxBit
  generalize s.checkDetectionTimer now = a
  dsimp only
  cases hp : a.l.phase with
  | none | detection | v14 | establish | connected => simp [hp]
  | release =>
    dsimp only
    split
    · simp [hp]
    · simp [hp]

theorem State.lTxBit_steps : s.l.phase.Steps (s.lTxBit now).1.l.phase := by
  rw [State.lTxBit_phase]
  by_cases h : s.l.phase = .detection ∧ s.l.detStart + 750 ≤ now
  · rw [checkDetectionTimer_expired h.1 h.2, h.1]
    simp [Phase.Steps]
  · have hkeep : s.checkDetectionTimer now = s := if_neg fun ⟨hp, ht⟩ => h ⟨hp, of_decide_eq_true ht⟩
    rw [hkeep]
    exact .refl _

/-! ### The instructions -/

/-- R10: an operation of a unit other than L leaves L's registers. -/
theorem exec_l_eq {i : Instr} (hi : unitOf i ≠ .l) : AllNext (·.l = s.l) (exec i s) := by
  intro t ht
  cases hu : unitOf i with
  | v => rw [exec_onlyV hu t ht]
  | h => rw [exec_onlyH hu t ht]
  | c => rw [exec_onlyC hu t ht]
  | d => rw [exec_onlyD hu t ht]
  | l => exact absurd hu hi

/-- R123, R126, log 11: what behind the pumps' refusals makes a transition of the table makes one with them. -/
theorem lPump_steps {r : Result} (h : s.l.phase.Steps t.l.phase) :
    AllNext (s.l.phase.Steps ·.l.phase) (lPump s (done t r)) :=
  allNext_lPump (fun _ => .refl _) (allNext_done h)

theorem exec_frame_steps {i : Instr} (hi : frameTime i = some now) (hnone : s.l.phase = .none → s.l.adpSent = false) :
    AllNext (s.l.phase.Steps ·.l.phase) (exec i s) := by
  obtain ⟨f, hf⟩ := exec_of_frameTime (s := s) hi
  rw [hf]
  exact lPump_steps (State.lFrame_steps hnone f)

/-- R131, R151: V14 and Release are left by L.RESET alone. -/
theorem exec_phase_settled {i : Instr} (hi : i ≠ .lReset) (hp : s.l.phase = .v14 ∨ s.l.phase = .release) :
    AllNext (·.l.phase = s.l.phase) (exec i s) := by
  have hnone : s.l.phase = .none → s.l.adpSent = false := by rcases hp with hp | hp <;> simp [hp]
  by_cases hu : unitOf i = .l
  · have hsteps : ∀ {t r}, s.l.phase.Steps t.l.phase → AllNext (·.l.phase = s.l.phase) (lPump s (done t r)) :=
      fun h u hu => (lPump_steps h u hu).eq_of_settled hp
    cases i with
    | lReset => exact absurd rfl hi
    | lRxbit b now => exact hsteps (State.lRxBit_steps hnone b)
    | lTxbit now => exact hsteps State.lTxBit_steps
    | v14Char | odp | adp | flag | abort | frame => exact hsteps (.of_eq (State.lRxBits_phase_settled hp _))
    | iFrame | rr | rnr | rej | srej | sOther | sabme | disc | ua | xid | uOther | xidFi | xidGroupPublic
    | xidGroupPrivate | xidGroupUserdata | xidParamTxsize | xidParamWindow | xidParamCompreq =>
      exact hsteps (State.lFrame_steps hnone _)
    | _ => cases hu
  · intro t ht
    rw [exec_l_eq hu t ht]

/-- Settles O56: a transition of the table for each kind of operation, by `lRxBit_steps`, `lTxBit_steps` and `lFrame_steps`;
V14 and Release by `exec_phase_settled`. -/
theorem phaseTransitions : Obligations.PhaseTransitions := by
  intro i s t ⟨_, hnone, _, _⟩ ht
  refine ⟨?_, fun hreset hp => exec_phase_settled hreset hp t ht⟩
  rintro (⟨b, now, rfl⟩ | ⟨now, rfl⟩ | ⟨now, hi⟩ | hu)
  · exact lPump_steps (State.lRxBit_steps hnone b) t ht
  · exact lPump_steps State.lTxBit_steps t ht
  · exact exec_frame_steps hi hnone t ht
  · exact .inl (by rw [exec_l_eq hu t ht])

/-! ### The fall-back to V14 (R130) -/

/-- Behind its refusals a pump does what it does (R262, R233). -/
theorem lPump_open (hs : s.pumpsOpen) (k : Out) : lPump s k = k := by
  rw [lPump, whenWritten_of_written hs.1, whenNoFault, hs.2]
  rfl

theorem State.lRxBit_phase_eq_v14 (hp : s.l.phase = .detection) (b : Bool) :
    (s.lRxBit b now).l.phase = .v14 ↔ s.l.detStart + 750 ≤ now := by
  by_cases ht : s.l.detStart + 750 ≤ now
  · rw [State.lRxBit_expired hp ht]
    exact iff_of_true (State.lRxBit_phase_v14 rfl b) ht
  · rcases State.lRxBit_phase_detection hp (Nat.lt_of_not_le ht) b with h | h
    · simp [h, ht]
    · simp [h, ht]

theorem State.lTxBit_phase_eq_v14 (hp : s.l.phase = .detection) :
    (s.lTxBit now).1.l.phase = .v14 ↔ s.l.detStart + 750 ≤ now := by
  rw [State.lTxBit_phase]
  by_cases ht : s.l.detStart + 750 ≤ now
  · rw [checkDetectionTimer_expired hp ht]
    exact iff_of_true rfl ht
  · rw [checkDetectionTimer_of_lt (Nat.lt_of_not_le ht), hp]
    exact iff_of_false nofun ht

/-- Settles O34: at expiry a pump acts as in phase V14 by `lRxBit_expired` and `lTxBit_expired`, and it leaves that phase only
then. -/
theorem detectionTimerFallsBack : Obligations.DetectionTimerFallsBack := by
  intro s b now hs hp i hi
  rcases List.mem_pair.mp hi with rfl | rfl
  · refine ⟨fun ht => ?_, _, lPump_open hs _, State.lRxBit_phase_eq_v14 hp b⟩
    refine (lPump_open hs _).trans (.trans ?_ (lPump_open (s := s.setL { s.l with phase := .v14 }) hs _).symm)
    rw [State.lRxBit_expired hp ht]
    rfl
  · refine ⟨fun ht => ?_, _, lPump_open hs _, State.lTxBit_phase_eq_v14 hp⟩
    refine (lPump_open hs _).trans (.trans ?_ (lPump_open (s := s.setL { s.l with phase := .v14 }) hs _).symm)
    rw [State.lTxBit_expired hp ht]
    rfl

end Sys2Proof.Machine
end

section
/-!
SUPPORT. Sequence numbers, acknowledgement and retransmission (42_lapm.md R120 to R122, R125, R136), and the supervisory and
unnumbered frames as L handles them (R132, R134 to R138, R140, R142).
-/

namespace Sys2Proof.Machine

variable {s t : State} {now : Nat}

/-! ### Arithmetic modulo 128 (R120 to R122) -/

/-- R120: how far `b` is ahead of `a`. -/
theorem toNat_sub_seqNum (a b : SeqNum) : (b - a).toNat = (b.toNat + 128 - a.toNat) % 128 := by
  have ha := a.isLt
  rw [BitVec.toNat_sub]
  congr 1
  omega

/-- R122: the comparator by the distance. -/
theorem lteMod128_iff (a b : SeqNum) : lteMod128 a b = true ↔ (b.toNat + 128 - a.toNat) % 128 ≤ 64 := by
  rw [lteMod128, decide_eq_true_eq, toNat_sub_seqNum]

/-- Settles O16: the distances both ways add up to 0 or 128. -/
theorem mod128Arithmetic : Obligations.Mod128Arithmetic := by
  intro a b
  refine ⟨BitVec.toNat_add a 1, BitVec.toNat_add a 127, lteMod128_iff a b, ?_⟩
  have ha := a.isLt
  have hb := b.isLt
  rw [lteMod128_iff, lteMod128_iff]
  omega

/-! ### Stored frames under an acknowledgement (R125) -/

/-- R125: the loop erases what lies before `nr` and nothing else. -/
theorem Lapm.ackTo_lookup (nr q : SeqNum) (fuel : Nat) {l : Lapm} (hl : Cells.sorted l.sentIFrames = true)
    (hf : (nr - l.txSeqAck).toNat ≤ fuel) :
    Cells.lookup (Lapm.ackTo nr fuel l).sentIFrames q.toNat =
      if (q - l.txSeqAck).toNat < (nr - l.txSeqAck).toNat then none else Cells.lookup l.sentIFrames q.toNat := by
  induction fuel generalizing l with
  | zero =>
    rw [if_neg (by omega)]
    rfl
  | succ n ih =>
    rw [Lapm.ackTo]
    split
    · next heq =>
      rw [heq, BitVec.sub_self]
      exact (if_neg (Nat.not_lt_zero _)).symm
    · next hne =>
      have hstep : (nr - incMod128 l.txSeqAck).toNat + 1 = (nr - l.txSeqAck).toNat := by
        unfold incMod128
        bv_omega
      refine (ih (Cells.sorted_erase _ hl) (by show (nr - incMod128 l.txSeqAck).toNat ≤ n; omega)).trans ?_
      show (if (q - incMod128 l.txSeqAck).toNat < (nr - incMod128 l.txSeqAck).toNat then none
        else Cells.lookup (Cells.erase l.sentIFrames l.txSeqAck.toNat) q.toNat) = _
      rw [Cells.lookup_erase _ _ hl]
      by_cases hq : q = l.txSeqAck
      · rw [hq, if_pos rfl, ite_self, BitVec.sub_self, if_pos (by show 0 < _; omega)]
      · have hq' : (q - incMod128 l.txSeqAck).toNat + 1 = (q - l.txSeqAck).toNat := by
          unfold incMod128
          bv_omega
        rw [if_neg (show ¬ l.txSeqAck.toNat = q.toNat from fun h => hq (BitVec.eq_of_toNat_eq h.symm))]
        by_cases hlt : (q - l.txSeqAck).toNat < (nr - l.txSeqAck).toNat
        · rw [if_pos hlt, if_pos (by omega)]
        · rw [if_neg hlt, if_neg (by omega)]

/-- R125: what is stored after an N(R), accepted or not. -/
theorem State.ackIFrame_lookup (hs : s.SentSorted) (nr q : SeqNum) :
    Cells.lookup (s.ackIFrame nr).l.sentIFrames q.toNat = s.l.sentAfter nr q := by
  unfold State.ackIFrame Lapm.sentAfter
  by_cases h : s.l.accepts nr
  · have hle : (nr - s.l.txSeqAck).toNat ≤ 128 := by
      have := (nr - s.l.txSeqAck).isLt
      omega
    rw [if_pos ((Lapm.nrValid_iff s.l nr).mpr h), State.setL_l, Lapm.ackTo_lookup nr q 128 hs hle]
    exact (if_congr (and_iff_right h) rfl rfl).symm
  · rw [if_neg (mt (Lapm.nrValid_iff s.l nr).mp h), if_neg fun hh => h hh.1, State.log_l]

/-! ### Frames queued in H one after another (R104) -/

theorem framesLine_append (fs gs : List (List Octet)) : framesLine (fs ++ gs) = framesLine fs ++ framesLine gs :=
  List.flatMap_append

theorem framesLine_singleton (f : List Octet) : framesLine [f] = frameBits (withFcs f) :=
  List.flatMap_singleton _ _

theorem Hdlc.queued_nil {h : Hdlc} (hh : h.inv) : h.queued h [] := ⟨(List.append_nil _).symm, hh, rfl, rfl⟩

theorem Hdlc.queued_trans {h k m : Hdlc} {as bs : List Bool} (hk : h.queued k as) (hm : k.queued m bs) :
    h.queued m (as ++ bs) := by
  obtain ⟨kline, -, kones, kframe⟩ := hk
  obtain ⟨mline, minv, mones, mframe⟩ := hm
  refine ⟨by rw [mline, kline, List.append_assoc], minv, ?_, mframe.trans (by rw [kframe])⟩
  rw [mones, kones]
  cases as with
  | nil => rfl
  | cons a as => simp

/-! ### Retransmission (R136) -/

/-- The stored frames under `q` and the `n - 1` numbers behind it, as they are sent again (R136). -/
def Lapm.storedFrom (l : Lapm) (q : SeqNum) (n : Nat) : List (List Octet) :=
  (List.range n).filterMap fun k => (Cells.lookup l.sentIFrames (q + BitVec.ofNat 7 k).toNat).map l.renumbered

theorem Lapm.resent_eq (l : Lapm) (nr : SeqNum) :
    l.resent nr = if l.accepts nr then l.storedFrom nr (l.txSeqNum - nr).toNat else [] := rfl

/-- The frame under `q` comes first. -/
theorem Lapm.storedFrom_succ (l : Lapm) (q : SeqNum) (n : Nat) :
    l.storedFrom q (n + 1)
      = ((Cells.lookup l.sentIFrames q.toNat).map l.renumbered).toList ++ l.storedFrom (incMod128 q) n := by
  have hnext : ∀ k, q + BitVec.ofNat 7 (k + 1) = incMod128 q + BitVec.ofNat 7 k := fun k => by
    unfold incMod128
    bv_omega
  have hzero : q + BitVec.ofNat 7 0 = q := BitVec.add_zero q
  simp only [Lapm.storedFrom, List.range_succ_eq_map, List.filterMap_cons, List.filterMap_map, Function.comp_def, hzero,
    Nat.succ_eq_add_one, hnext]
  cases Cells.lookup l.sentIFrames q.toNat with
  | none | some => rfl

/-- What is sent again depends on the frames stored from `q` on and on V(R). -/
theorem Lapm.storedFrom_congr {l m : Lapm} (q : SeqNum) {n : Nat} (hrx : m.rxSeqNum = l.rxSeqNum)
    (h : ∀ p : SeqNum, (p - q).toNat < n →
      Cells.lookup m.sentIFrames p.toNat = Cells.lookup l.sentIFrames p.toNat) (hn : n ≤ 128) :
    m.storedFrom q n = l.storedFrom q n := by
  refine List.filterMap_congr fun k hk => ?_
  have hk := List.mem_range.mp hk
  have hsame : m.renumbered = l.renumbered := by
    funext fr
    rw [Lapm.renumbered, Lapm.renumbered, hrx]
  rw [h (q + BitVec.ofNat 7 k) (by bv_omega), hsame]

/-- `t` is `s` after the stored frames under `q` and the `n - 1` numbers behind it have been sent again: they are queued, the
inactivity timer restarts if there are any, and they are stored as they were sent (R136). -/
structure State.Resent (s t : State) (q : SeqNum) (n now : Nat) : Prop where
  line    : s.h.queued t.h (framesLine (s.l.storedFrom q n))
  timer   : t.l.inactStart = if s.l.storedFrom q n = [] then s.l.inactStart else now
  stored  : ∀ p : SeqNum, Cells.lookup t.l.sentIFrames p.toNat =
    if (p - q).toNat < n then (Cells.lookup s.l.sentIFrames p.toNat).map s.l.renumbered
    else Cells.lookup s.l.sentIFrames p.toNat

theorem State.Resent.zero (hh : s.h.inv) (q : SeqNum) : s.Resent s q 0 now :=
  ⟨Hdlc.queued_nil hh, rfl, fun _ => (if_neg (Nat.not_lt_zero _)).symm⟩

/-- R136: one stored frame, if there is one. -/
theorem State.resend_resent (hh : s.h.inv) (q : SeqNum) : s.Resent (s.resend q now) q 1 now := by
  have hone : ∀ p : SeqNum, (p - q).toNat < 1 ↔ p = q := fun p => by
    constructor
    · intro h
      bv_omega
    · rintro rfl
      bv_omega
  have hlist : s.l.storedFrom q 1 = ((Cells.lookup s.l.sentIFrames q.toNat).map s.l.renumbered).toList := by
    rw [Lapm.storedFrom_succ]
    exact List.append_nil _
  unfold State.resend
  cases hfr : Cells.lookup s.l.sentIFrames q.toNat with
  | none =>
    rw [hfr] at hlist
    refine ⟨?_, ?_, fun p => ?_⟩
    · rw [hlist]
      exact Hdlc.queued_nil hh
    · rw [hlist]
      rfl
    · by_cases hp : p = q
      · subst hp
        rw [hfr, Option.map_none, ite_self]
      · rw [if_neg (mt (hone p).mp hp)]
  | some fr =>
    have hq := Hdlc.sendFrame_queued hh (s.l.renumbered fr)
    rw [hfr] at hlist
    dsimp only
    rw [State.lSend_eq]
    refine ⟨?_, ?_, fun p => ?_⟩
    · rw [hlist]
      exact (framesLine_singleton _).symm ▸ hq
    · rw [hlist]
      rfl
    · show Cells.lookup (Cells.insert s.l.sentIFrames q.toNat _) p.toNat = _
      rw [Cells.lookup_insert]
      by_cases hp : p = q
      · subst hp
        rw [if_pos rfl, if_pos ((hone p).mpr rfl), hfr]
        rfl
      · rw [if_neg fun h => hp (BitVec.eq_of_toNat_eq h.symm), if_neg (mt (hone p).mp hp)]

/-- R136: one frame, then those behind it. -/
theorem State.Resent.succ {u : State} {q : SeqNum} {n : Nat} (h : s.Resent t q 1 now)
    (hrx : t.l.rxSeqNum = s.l.rxSeqNum) (h' : t.Resent u (incMod128 q) n now) (hn : n < 128) :
    s.Resent u q (n + 1) now := by
  have hrange : ∀ p : SeqNum, (p - incMod128 q).toNat < n → ¬ (p - q).toNat < 1 := fun p hp => by
    unfold incMod128 at hp
    bv_omega
  have hrest : t.l.storedFrom (incMod128 q) n = s.l.storedFrom (incMod128 q) n :=
    Lapm.storedFrom_congr _ hrx (fun p hp => by rw [h.stored p, if_neg (hrange p hp)]) hn.le
  have hsame : t.l.renumbered = s.l.renumbered := by
    funext fr
    rw [Lapm.renumbered, Lapm.renumbered, hrx]
  have hcut : s.l.storedFrom q (n + 1) = s.l.storedFrom q 1 ++ s.l.storedFrom (incMod128 q) n := by
    rw [Lapm.storedFrom_succ, Lapm.storedFrom_succ s.l q 0]
    exact congrArg (· ++ _) (List.append_nil _).symm
  refine ⟨?_, ?_, fun p => ?_⟩
  · rw [hcut, framesLine_append, ← hrest]
    exact Hdlc.queued_trans h.line h'.line
  · rw [h'.timer, h.timer, hrest, hcut]
    cases s.l.storedFrom q 1 with
    | nil => simp
    | cons f fs => simp
  · rw [h'.stored p, h.stored p, hsame]
    by_cases hp : (p - q).toNat < 1
    · rw [if_neg fun hlt => hrange p hlt hp, if_pos hp, if_pos (by omega)]
    · have hdist : (p - incMod128 q).toNat + 1 = (p - q).toNat := by
        unfold incMod128
        bv_omega
      rw [if_neg hp]
      by_cases hlt : (p - q).toNat < n + 1
      · rw [if_pos hlt, if_pos (by omega)]
      · rw [if_neg hlt, if_neg (by omega)]

/-- R136: a retransmitted frame leaves V(S) and V(R). -/
theorem State.resend_seqNums (q : SeqNum) :
    (s.resend q now).l.txSeqNum = s.l.txSeqNum ∧ (s.resend q now).l.rxSeqNum = s.l.rxSeqNum := by
  unfold State.resend
  split
  · exact ⟨rfl, rfl⟩
  · exact ⟨rfl, rfl⟩

/-- R136: with a turn for every number on the way the loop sends every stored frame from `q` up to V(S). -/
theorem State.resendFrom_resent (hh : s.h.inv) (fuel : Nat) (q : SeqNum) (hf : (s.l.txSeqNum - q).toNat ≤ fuel) :
    s.Resent (State.resendFrom now fuel q s) q (s.l.txSeqNum - q).toNat now := by
  induction fuel generalizing q s with
  | zero =>
    rw [Nat.le_zero.mp hf]
    exact .zero hh q
  | succ n ih =>
    rw [State.resendFrom]
    split
    · next heq =>
      rw [heq, BitVec.sub_self]
      exact .zero hh _
    · next hne =>
      obtain ⟨htx, hrx⟩ := State.resend_seqNums (s := s) (now := now) q
      have hone := State.resend_resent (now := now) hh q
      have hdist : (s.l.txSeqNum - q).toNat = (s.l.txSeqNum - incMod128 q).toNat + 1 := by
        unfold incMod128
        bv_omega
      have hrest := ih hone.line.2.1 (incMod128 q) (by rw [htx]; omega)
      rw [htx] at hrest
      rw [hdist]
      exact hone.succ hrx hrest (BitVec.isLt _)

/-! ### Supervisory frames (R132, R134 to R136, R140, R142) -/

/-- R132: an S frame in Establish or Connected, behind its refusals. -/
theorem sFrame_arrives (hs : s.pumpsOpen) (hh : s.handlesFrames) {code : Octet} (hc : Params.isSCode code = true)
    (addr : Octet) (nr : SeqNum) (pf : Bool) (ht : s.handleS code nr now = t) (hf : t.l.fault = none) :
    frameArrives (sFrameOctets addr code nr pf) now s = .next { t with result := .none } := by
  obtain ⟨h0, h1⟩ := getLsbD_of_isSCode hc
  refine frameArrives_of_noFault hs ?_ hf
  rw [State.lFrame_of_handlesFrames hh, sFrameOctets, State.handleFrame_s addr h0 h1, seqField_seqOctet, ht]

theorem State.handleS_rr (nr : SeqNum) : s.handleS s.cfg.ctlRr nr now = s.ackIFrame nr := if_pos rfl

theorem State.handleS_rnr (nr : SeqNum) : s.handleS s.cfg.ctlRnr nr now = s.ackIFrame nr := by
  rw [State.handleS, if_pos rfl, ite_self]

/-- R57: the REJ code is neither RR's nor RNR's. -/
theorem State.handleS_rej (hp : s.cfg.wf = true) (nr : SeqNum) :
    s.handleS s.cfg.ctlRej nr now = s.handleReject nr now := by
  obtain ⟨-, hnodup⟩ := Params.wf_sCodes hp
  simp only [Params.sCodes, List.nodup_cons, List.mem_cons, List.not_mem_nil, or_false, not_or] at hnodup
  obtain ⟨⟨-, hrr, -⟩, ⟨hrnr, -⟩, -⟩ := hnodup
  rw [State.handleS, if_neg (Ne.symm hrr), if_neg (Ne.symm hrnr), if_pos rfl]

/-- R140, R142: any other S code is dropped. -/
theorem State.handleS_unknown {code : Octet} (hrr : code ≠ s.cfg.ctlRr) (hrnr : code ≠ s.cfg.ctlRnr)
    (hrej : code ≠ s.cfg.ctlRej) (nr : SeqNum) : s.handleS code nr now = s.log [.unknownCmd] := by
  rw [State.handleS, if_neg hrr, if_neg hrnr, if_neg hrej]

/-- R125: an N(R) raises no fault. -/
theorem State.ackIFrame_fault (nr : SeqNum) : (s.ackIFrame nr).l.fault = s.l.fault := by rw [State.ackIFrame_eq]

/-- Settles O17: both codes are `ackIFrame`. -/
theorem rrRnrAcknowledge : Obligations.RrRnrAcknowledge := by
  intro s addr nr pf now hs hh hp hsorted i hi
  have hcodes := (Params.wf_sCodes hp).1
  have heq := s.ackIFrame_eq nr
  have hexec : exec i s = .next { s.ackIFrame nr with result := .none } := by
    rcases List.mem_pair.mp hi with rfl | rfl
    · exact sFrame_arrives hs hh (hcodes _ (by simp [Params.sCodes])) addr nr pf (State.handleS_rr nr)
        ((State.ackIFrame_fault nr).trans hs.2)
    · exact sFrame_arrives hs hh (hcodes _ (by simp [Params.sCodes])) addr nr pf (State.handleS_rnr nr)
        ((State.ackIFrame_fault nr).trans hs.2)
  refine ⟨_, hexec, ?_, State.ackIFrame_lookup hsorted nr⟩
  generalize s.ackIFrame nr = a at heq ⊢
  rw [heq]

/-- R125, R136: the frames that an accepted N(R) has sent again are none of those that it acknowledges. -/
theorem Lapm.sentAfter_of_resent {l : Lapm} {nr q : SeqNum} (h : l.accepts nr)
    (hq : (q - nr).toNat < (l.txSeqNum - nr).toNat) : l.sentAfter nr q = Cells.lookup l.sentIFrames q.toNat := by
  obtain ⟨hack, htx, -⟩ := h
  refine if_neg fun ⟨_, hlt⟩ => ?_
  bv_omega

/-- R136: what a REJ does, its N(R) accepted or not. -/
theorem State.handleReject_resent (hsorted : s.SentSorted) (hh : s.h.inv) (nr : SeqNum) :
    s.h.queued (s.handleReject nr now).h (framesLine (s.l.resent nr))
    ∧ s.handleReject nr now = { s with
        h := (s.handleReject nr now).h
        l := { s.l with
          txSeqAck := s.l.ackAfter nr, sentIFrames := (s.handleReject nr now).l.sentIFrames
          inactStart := if s.l.resent nr = [] then s.l.inactStart else now }
        trace := s.trace ++ s.l.ackEvents nr }
    ∧ ∀ q : SeqNum, Cells.lookup (s.handleReject nr now).l.sentIFrames q.toNat =
        if s.l.accepts nr ∧ (q - nr).toNat < (s.l.txSeqNum - nr).toNat
        then (s.l.sentAfter nr q).map s.l.renumbered
        else s.l.sentAfter nr q := by
  have hack := s.ackIFrame_eq nr
  have hlookup := State.ackIFrame_lookup hsorted nr
  rw [State.handleReject_eq, Lapm.resent_eq]
  by_cases h : s.l.accepts nr
  · rw [if_pos h, if_pos h]
    generalize s.ackIFrame nr = a at hack hlookup ⊢
    have hh' : a.h = s.h := by rw [hack]
    have htx : a.l.txSeqNum = s.l.txSeqNum := by rw [hack]
    have hrx : a.l.rxSeqNum = s.l.rxSeqNum := by rw [hack]
    have hrenum : a.l.renumbered = s.l.renumbered := by
      funext fr
      rw [Lapm.renumbered, Lapm.renumbered, hrx]
    have hlist : a.l.storedFrom nr (s.l.txSeqNum - nr).toNat = s.l.storedFrom nr (s.l.txSeqNum - nr).toNat :=
      Lapm.storedFrom_congr nr hrx (fun p hp => by rw [hlookup, Lapm.sentAfter_of_resent h hp])
        (by have := (s.l.txSeqNum - nr).isLt; omega)
    have hresent := State.resendFrom_resent (s := a) (now := now) (by rw [hh']; exact hh) 128 nr
      (by have := (a.l.txSeqNum - nr).isLt; omega)
    have hframe := State.resendFrom_eq now 128 nr a
    obtain ⟨hline, htimer, hstored⟩ := hresent
    rw [htx, hlist] at hline htimer
    rw [htx] at hstored
    generalize State.resendFrom now 128 nr a = t at hline htimer hstored hframe ⊢
    rw [hh'] at hline
    refine ⟨hline, ?_, fun q => ?_⟩
    · rw [hframe, htimer, hack]
    · rw [hstored, hlookup, hrenum]
      exact (if_congr (and_iff_right h) rfl rfl).symm
  · have hafter : s.l.ackAfter nr = s.l.txSeqAck := if_neg h
    have hevents : s.l.ackEvents nr = [.badNr] := if_neg h
    rw [if_neg h, if_neg h, hafter, hevents]
    refine ⟨Hdlc.queued_nil hh, rfl, fun q => ?_⟩
    rw [if_neg fun hh => h hh.1]
    exact (if_neg fun hh => h hh.1).symm

/-- Settles O18: the REJ code is `handleReject`, of which `handleReject_resent` says everything. -/
theorem rejGoesBack : Obligations.RejGoesBack := by
  intro s addr nr pf now hs hh hp hsorted hinv
  obtain ⟨hline, hframe, hstored⟩ := State.handleReject_resent (now := now) hsorted hinv nr
  have hcode := (Params.wf_sCodes hp).1 s.cfg.ctlRej (by simp [Params.sCodes])
  have hf : (s.handleReject nr now).l.fault = none := by rw [hframe]; exact hs.2
  refine ⟨_, sFrame_arrives hs hh hcode addr nr pf (State.handleS_rej hp nr) hf, hline, ?_, hstored⟩
  generalize s.handleReject nr now = t at hframe ⊢
  rw [hframe]

/-! ### Unnumbered frames (R132, R137, R138, R142) -/

/-- R132: a U frame in Establish or Connected, behind its refusals. -/
theorem uFrame_arrives (hs : s.pumpsOpen) (hh : s.handlesFrames) {code : Octet} (hc : Params.isUCode code = true)
    (addr : Octet) (pf : Bool) (info : List Octet) (ht : s.handleU (uFrameOctets addr code pf info) now = t)
    (hf : t.l.fault = none) : frameArrives (uFrameOctets addr code pf info) now s = .next { t with result := .none } := by
  refine frameArrives_of_noFault hs ?_ hf
  rw [State.lFrame_of_handlesFrames hh, State.handleFrame_u hc, ht]

/-- R58, R132: a U frame is handled by its code, with its address and P/F. -/
theorem State.handleU_eq {code : Octet} (hc : Params.isUCode code = true) (addr : Octet) (pf : Bool) (info : List Octet) :
    s.handleU (uFrameOctets addr code pf info) now =
      if code = s.cfg.ctlSabme then s.handleSabme addr pf now
      else if code = s.cfg.ctlDisc then s.handleDisc addr pf now
      else if code = s.cfg.ctlXid then s.handleXid (uFrameOctets addr code pf info) now
      else s.log [.unknownCmd] := by
  obtain ⟨-, -, hcode, hpf⟩ := uOctet_fields hc pf
  have hctl : (uFrameOctets addr code pf info).getD 1 0 = uOctet code pf := rfl
  have haddr : (uFrameOctets addr code pf info).getD 0 0 = addr := rfl
  simp only [State.handleU, hctl, haddr, hcode, hpf]

/-- R58: the four U codes differ. -/
theorem Params.wf_uCodes_ne {p : Params} (hp : p.wf = true) :
    p.ctlDisc ≠ p.ctlSabme ∧ p.ctlUa ≠ p.ctlSabme ∧ p.ctlUa ≠ p.ctlDisc ∧ p.ctlUa ≠ p.ctlXid := by
  obtain ⟨-, hnodup⟩ := Params.wf_uCodes hp
  simp only [Params.uCodes, List.nodup_cons, List.mem_cons, List.not_mem_nil, or_false, not_or] at hnodup
  obtain ⟨⟨hdisc, hua, -⟩, ⟨hua', -⟩, hxid, -⟩ := hnodup
  exact ⟨Ne.symm hdisc, Ne.symm hua, Ne.symm hua', hxid⟩

/-- R142: a code that is none of SABME, DISC and XID is dropped. -/
theorem uFrame_unknown (hs : s.pumpsOpen) (hh : s.handlesFrames) {code : Octet} (hc : Params.isUCode code = true)
    (hsabme : code ≠ s.cfg.ctlSabme) (hdisc : code ≠ s.cfg.ctlDisc) (hxid : code ≠ s.cfg.ctlXid) (addr : Octet) (pf : Bool) :
    frameArrives (uFrameOctets addr code pf []) now s
      = .next { s with trace := s.trace ++ [.unknownCmd], result := .none } := by
  refine uFrame_arrives hs hh hc addr pf [] (t := s.log [.unknownCmd]) ?_ hs.2
  rw [State.handleU_eq hc, if_neg hsabme, if_neg hdisc, if_neg hxid]

/-- R140, R142: an S code that is none of RR, RNR and REJ is dropped. -/
theorem sFrame_unknown (hs : s.pumpsOpen) (hh : s.handlesFrames) {code : Octet} (hc : Params.isSCode code = true)
    (hrr : code ≠ s.cfg.ctlRr) (hrnr : code ≠ s.cfg.ctlRnr) (hrej : code ≠ s.cfg.ctlRej) (addr : Octet) (nr : SeqNum)
    (pf : Bool) :
    frameArrives (sFrameOctets addr code nr pf) now s
      = .next { s with trace := s.trace ++ [.unknownCmd], result := .none } :=
  sFrame_arrives hs hh hc addr nr pf (State.handleS_unknown hrr hrnr hrej nr) (t := s.log [.unknownCmd]) hs.2

/-- Settles O19: `sFrame_unknown` and `uFrame_unknown`, the codes being none of those that are answered. -/
theorem unknownCommandsDropped : Obligations.UnknownCommandsDropped := by
  intro s addr code nr pf now hs hh hp i hi hwf
  obtain ⟨hscodes, hsnodup⟩ := Params.wf_sCodes hp
  have hucodes := (Params.wf_uCodes hp).1
  obtain ⟨-, hua, hua', hxid⟩ := Params.wf_uCodes_ne hp
  simp only [List.mem_cons, List.not_mem_nil, or_false] at hi
  rcases hi with rfl | rfl | rfl | rfl
  · simp only [Params.sCodes, List.nodup_cons, List.mem_cons, List.not_mem_nil, or_false, not_or] at hsnodup
    obtain ⟨⟨-, -, hrr⟩, ⟨-, hrnr⟩, hrej, -⟩ := hsnodup
    exact sFrame_unknown hs hh (hscodes _ (by simp [Params.sCodes])) (Ne.symm hrr) (Ne.symm hrnr) (Ne.symm hrej) addr nr pf
  · obtain ⟨hc, hrr, hrnr, hrej, -⟩ : Params.isSCode code = true ∧ code ≠ s.cfg.ctlRr ∧ code ≠ s.cfg.ctlRnr
        ∧ code ≠ s.cfg.ctlRej ∧ code ≠ s.cfg.ctlSrej := by simpa [wellFormed, Params.sCodes] using hwf
    exact sFrame_unknown hs hh hc hrr hrnr hrej addr nr pf
  · exact uFrame_unknown hs hh (hucodes _ (by simp [Params.uCodes])) hua hua' hxid addr pf
  · obtain ⟨hc, hsabme, hdisc, -, hxid⟩ : Params.isUCode code = true ∧ code ≠ s.cfg.ctlSabme ∧ code ≠ s.cfg.ctlDisc
        ∧ code ≠ s.cfg.ctlUa ∧ code ≠ s.cfg.ctlXid := by simpa [wellFormed, Params.uCodes] using hwf
    exact uFrame_unknown hs hh hc hsabme hdisc hxid addr pf

/-- Settles O20: both are the UA that `sendFrame_queued` says is queued, and their own updates of L. -/
theorem sabmeAndDiscAnswered : Obligations.SabmeAndDiscAnswered := by
  intro s addr pf now hs hh hp hinv ua
  have hcodes := (Params.wf_uCodes hp).1
  have hne := (Params.wf_uCodes_ne hp).1
  have hq : s.h.queued (s.h.sendFrame [addr, uOctet s.cfg.ctlUa pf]) ua := Hdlc.sendFrame_queued hinv _
  have hsabme : s.handleU (uFrameOctets addr s.cfg.ctlSabme pf []) now = s.handleSabme addr pf now := by
    rw [State.handleU_eq (hcodes _ (by simp [Params.uCodes])), if_pos rfl]
  have hdisc : s.handleU (uFrameOctets addr s.cfg.ctlDisc pf []) now = s.handleDisc addr pf now := by
    rw [State.handleU_eq (hcodes _ (by simp [Params.uCodes])), if_neg hne, if_pos rfl]
  rw [State.handleSabme, State.lSend_eq] at hsabme
  rw [State.handleDisc, State.lSend_eq] at hdisc
  generalize s.h.sendFrame _ = k at hq hsabme hdisc
  exact ⟨⟨_, uFrame_arrives hs hh (hcodes _ (by simp [Params.uCodes])) addr pf [] hsabme hs.2, hq, rfl⟩,
    ⟨_, uFrame_arrives hs hh (hcodes _ (by simp [Params.uCodes])) addr pf [] hdisc hs.2, hq, rfl⟩⟩

end Sys2Proof.Machine
end

section
/-!
SUPPORT. D gives the octets that it has put out, and reads none of them (45_decompressor.md R211 to R222): what was put out
before stands in front of what an octet of the stream gives.
-/

namespace Sys2Proof.Machine

variable {p : Params} (d : Decomp) (os : List Octet)

/-- D with the octets `os` put out before those that it holds. -/
def Decomp.behindOut (d : Decomp) (os : List Octet) : Decomp := { d with out := os ++ d.out }

/-- What D has put out stands in front of D with nothing put out. -/
theorem Decomp.behindOut_self : Decomp.behindOut { d with out := [] } d.out = d := by
  rw [Decomp.behindOut, List.append_nil]

theorem Decomp.outByte_behindOut (x : Octet) : (d.behindOut os).outByte p x = (d.outByte p x).behindOut os := by
  simp only [Decomp.outByte, Decomp.behindOut, List.append_assoc]

theorem Decomp.outBytes_behindOut (xs : List Octet) :
    xs.foldl (Decomp.outByte p) (d.behindOut os) = (xs.foldl (Decomp.outByte p) d).behindOut os := by
  induction xs generalizing d with
  | nil => rfl
  | cons x xs ih => rw [List.foldl_cons, Decomp.outByte_behindOut, ih, List.foldl_cons]

/-- Two operations on D that branch alike. -/
theorem Decomp.ite_behindOut {P Q : Prop} [Decidable P] [Decidable Q] {a b a' b' : Decomp} (hPQ : P ↔ Q)
    (ha : a = a'.behindOut os) (hb : b = b'.behindOut os) :
    (if P then a else b) = (if Q then a' else b').behindOut os := by
  by_cases h : Q
  · rw [if_pos (hPQ.mpr h), if_pos h, ha]
  · rw [if_neg (mt hPQ.mp h), if_neg h, hb]

/-- R212 to R216: a command puts out at most the escape code. -/
theorem Decomp.command_behindOut (b : Octet) : (d.behindOut os).command p b = (d.command p b).behindOut os :=
  Decomp.ite_behindOut os Iff.rfl rfl
    (Decomp.ite_behindOut os Iff.rfl (Decomp.outByte_behindOut d os d.base.escapeCode)
      (Decomp.ite_behindOut os Iff.rfl rfl rfl))

theorem Decomp.transparentOctet_behindOut (b : Octet) :
    (d.behindOut os).transparentOctet p b = (d.transparentOctet p b).behindOut os :=
  Decomp.ite_behindOut os Iff.rfl (Decomp.command_behindOut { d with escaped := false } os b)
    (Decomp.ite_behindOut os Iff.rfl rfl (Decomp.outByte_behindOut d os b))

/-- R217 to R221: of the codewords only a data codeword puts octets out. -/
theorem Decomp.codeword_behindOut (w : Nat) : (d.behindOut os).codeword p w = (d.codeword p w).behindOut os := by
  have hstepup : (d.behindOut os).doStepup p = (d.doStepup p).behindOut os := Decomp.ite_behindOut os Iff.rfl rfl rfl
  have hdata : (d.behindOut os).dataCodeword p w = (d.dataCodeword p w).behindOut os :=
    Decomp.ite_behindOut os Iff.rfl rfl (Decomp.outBytes_behindOut d os _)
  exact Decomp.ite_behindOut os Iff.rfl rfl
    (Decomp.ite_behindOut os Iff.rfl rfl (Decomp.ite_behindOut os Iff.rfl hstepup hdata))

theorem Decomp.extract_behindOut (fuel : Nat) :
    Decomp.extract p fuel (d.behindOut os) = (Decomp.extract p fuel d).behindOut os := by
  induction fuel generalizing d with
  | zero => rfl
  | succ n ih =>
    refine Decomp.ite_behindOut os Iff.rfl ?_ rfl
    rw [← ih]
    exact congrArg (Decomp.extract p n) (Decomp.codeword_behindOut
      { d with inBuf := d.inBuf >>> d.base.codeWordSize, inCnt := d.inCnt - d.base.codeWordSize } os _)

/-- R211: an octet of the stream. -/
theorem Decomp.write_behindOut (b : Octet) : (d.behindOut os).write p b = (d.write p b).behindOut os :=
  Decomp.ite_behindOut os Iff.rfl rfl
    (Decomp.ite_behindOut os Iff.rfl (Decomp.transparentOctet_behindOut d os b)
      (Decomp.extract_behindOut { d with inBuf := d.inBuf ||| (b.toNat <<< d.inCnt), inCnt := d.inCnt + 8 } os _))

theorem Decomp.writes_behindOut (xs : List Octet) :
    (d.behindOut os).writes p xs = (d.writes p xs).behindOut os := by
  induction xs generalizing d with
  | nil => rfl
  | cons x xs ih =>
    refine Eq.trans ?_ (ih (d.write p x))
    rw [← Decomp.write_behindOut]
    rfl

variable {d}

theorem Decomp.writes_cons (x : Octet) (xs : List Octet) : d.writes p (x :: xs) = (d.write p x).writes p xs := rfl

/-- R233: a latched fault shuts the rest of the octets out. -/
theorem Decomp.writes_of_fault (hf : d.fault ≠ none) (xs : List Octet) : d.writes p xs = d := by
  induction xs with
  | nil => rfl
  | cons x xs ih => rw [Decomp.writes_cons, Decomp.write_of_fault hf, ih]

/-- R211: octets given to D with what it has put out taken away, as L does (R150), or left. -/
theorem Decomp.writes_taken (xs : List Octet) :
    d.writes p xs = (Decomp.writes p { d with out := [] } xs).behindOut d.out := by
  rw [← Decomp.writes_behindOut, Decomp.behindOut_self]

end Sys2Proof.Machine
end

section
/-!
SUPPORT. I-frames received (42_lapm.md R125, R133, R150): acknowledgement, sequence, delivery with and without compression, and
the answer.
-/

namespace Sys2Proof.Machine

variable {s t : State} {now : Nat}

/-! ### The frame (R56, R132) -/

/-- R132: an I-frame has five octets or more. -/
theorem State.handleFrame_i (addr : Octet) (ns nr : SeqNum) (p : Bool) (info : List Octet) :
    s.handleFrame (iFrameOctets addr ns nr p info) now = s.handleIFrame (iFrameOctets addr ns nr p info) now := by
  have hctl : (iFrameOctets addr ns nr p info).getD 1 0 = seqOctet ns false := rfl
  have h4 : ¬ (iFrameOctets addr ns nr p info).length < 4 := by simp [iFrameOctets, withFcs, fcsOctets]
  have h5 : ¬ (iFrameOctets addr ns nr p info).length < 5 := by simp [iFrameOctets, withFcs, fcsOctets]
  have hfcs : checkFcs (iFrameOctets addr ns nr p info) = true := checkFcs_withFcs _
  simp only [State.handleFrame, if_neg h4, if_neg h5, hfcs, hctl, getLsbD_zero_seqOctet, Bool.not_true,
    Bool.false_eq_true, if_false, if_true]

/-- R54: the information field of an I-frame is what stands between its control field and its FCS. -/
theorem iFrameOctets_info (addr : Octet) (ns nr : SeqNum) (p : Bool) (info : List Octet) :
    ((iFrameOctets addr ns nr p info).drop 3).take ((iFrameOctets addr ns nr p info).length - 5) = info := by
  have hlen : (iFrameOctets addr ns nr p info).length - 5 = info.length := by
    simp [iFrameOctets, withFcs, fcsOctets]
  rw [hlen]
  exact List.take_left

/-- R132: an I-frame in Establish or Connected, behind its refusals. -/
theorem exec_iFrame (hs : s.pumpsOpen) (hh : s.handlesFrames) {addr : Octet} {ns nr : SeqNum} {p : Bool}
    {info : List Octet} (ht : s.handleIFrame (iFrameOctets addr ns nr p info) now = t) :
    exec (.iFrame addr ns nr p info now) s = .next { t with result := faultOr t.l.fault .none } := by
  have hexec : exec (.iFrame addr ns nr p info now) s = _ := frameArrives_open hs.1 hs.2
  rw [hexec, State.lFrame_of_handlesFrames hh, State.handleFrame_i, ht]
  rfl

theorem exec_iFrame_noFault (hs : s.pumpsOpen) (hh : s.handlesFrames) {addr : Octet} {ns nr : SeqNum} {p : Bool}
    {info : List Octet} (ht : s.handleIFrame (iFrameOctets addr ns nr p info) now = t) (hf : t.l.fault = none) :
    exec (.iFrame addr ns nr p info now) s = .next { t with result := .none } := by
  rw [exec_iFrame hs hh ht, hf]
  rfl

/-! ### What follows the acknowledgement (R133) -/

/-- L behind the acknowledgement of an in-sequence I-frame, V(R) advanced (R133). -/
def State.advanced (s : State) (nr : SeqNum) : State :=
  (s.ackIFrame nr).setL { (s.ackIFrame nr).l with rxSeqNum := incMod128 s.l.rxSeqNum }

theorem State.advanced_eq (nr : SeqNum) :
    s.advanced nr = { s with
      l := { s.l with
        txSeqAck := s.l.ackAfter nr, sentIFrames := (s.ackIFrame nr).l.sentIFrames, rxSeqNum := s.l.rxSeqNum + 1 }
      trace := s.trace ++ s.l.ackEvents nr } := by
  have hack := s.ackIFrame_eq nr
  unfold State.advanced
  generalize s.ackIFrame nr = a at hack ⊢
  rw [hack]
  rfl

theorem State.ackIFrame_rxSeqNum (nr : SeqNum) : (s.ackIFrame nr).l.rxSeqNum = s.l.rxSeqNum := by
  rw [State.ackIFrame_eq]

theorem State.ackIFrame_cfg (nr : SeqNum) : (s.ackIFrame nr).cfg = s.cfg := by rw [State.ackIFrame_eq]

/-- R133: with another N(S) the answer is REJ and nothing is delivered. -/
theorem State.handleIFrame_rejected {ns : SeqNum} (hns : ns ≠ s.l.rxSeqNum) (addr : Octet) (nr : SeqNum) (p : Bool)
    (info : List Octet) :
    s.handleIFrame (iFrameOctets addr ns nr p info) now
      = (s.ackIFrame nr).lSend [addr, s.cfg.ctlRej, seqOctet s.l.rxSeqNum p] now := by
  have haddr : (iFrameOctets addr ns nr p info).getD 0 0 = addr := rfl
  have hctl : (iFrameOctets addr ns nr p info).getD 1 0 = seqOctet ns false := rfl
  have hctl2 : (iFrameOctets addr ns nr p info).getD 2 0 = seqOctet nr p := rfl
  simp only [State.handleIFrame, haddr, hctl, hctl2, seqField_seqOctet, getLsbD_zero_seqOctet, State.ackIFrame_rxSeqNum,
    State.ackIFrame_cfg, if_pos hns]

/-- R133: with the expected N(S) the information is delivered, and answered unless a fault ends the operation. -/
theorem State.handleIFrame_delivered (addr : Octet) (nr : SeqNum) (p : Bool) (info : List Octet) :
    s.handleIFrame (iFrameOctets addr s.l.rxSeqNum nr p info) now =
      if ((s.advanced nr).deliverAll info).l.fault.isSome then (s.advanced nr).deliverAll info
      else ((s.advanced nr).deliverAll info).replyRr addr p now := by
  have haddr : (iFrameOctets addr s.l.rxSeqNum nr p info).getD 0 0 = addr := rfl
  have hctl : (iFrameOctets addr s.l.rxSeqNum nr p info).getD 1 0 = seqOctet s.l.rxSeqNum false := rfl
  have hctl2 : (iFrameOctets addr s.l.rxSeqNum nr p info).getD 2 0 = seqOctet nr p := rfl
  unfold State.handleIFrame State.advanced
  dsimp only
  rw [haddr, hctl, hctl2, seqField_seqOctet, seqField_seqOctet, getLsbD_zero_seqOctet, State.ackIFrame_rxSeqNum,
    iFrameOctets_info, if_neg (not_not.mpr rfl)]

/-! ### The answer (R133) -/

theorem State.canSendIFrame_eq_piggybacks (s : State) : s.canSendIFrame = s.piggybacks s.l.txSeqAck := by
  unfold State.canSendIFrame State.piggybacks Lapm.windowOpen
  cases s.source with
  | nil | cons => rfl

/-- The RR that answers an in-sequence I-frame, none where the acknowledgement is piggybacked (R133). -/
def State.rrReply (s : State) (addr : Octet) (p : Bool) : List (List Octet) :=
  if p || !s.canSendIFrame then [[addr, s.cfg.ctlRr, seqOctet s.l.rxSeqNum p]] else []

/-- R133: the RR is queued, if there is one, and the inactivity timer then restarts. -/
theorem State.replyRr_queued (hh : s.h.inv) (addr : Octet) (p : Bool) :
    s.h.queued (s.replyRr addr p now).h (framesLine (s.rrReply addr p))
    ∧ s.replyRr addr p now = { s with
        h := (s.replyRr addr p now).h
        l := { s.l with inactStart := if s.rrReply addr p = [] then s.l.inactStart else now } } := by
  unfold State.replyRr State.rrReply
  split
  · have hq := Hdlc.sendFrame_queued hh [addr, s.cfg.ctlRr, seqOctet s.l.rxSeqNum p]
    rw [State.lSend_eq, if_neg (List.cons_ne_nil _ _), framesLine_singleton]
    generalize s.h.sendFrame _ = k at hq ⊢
    exact ⟨hq, rfl⟩
  · exact ⟨Hdlc.queued_nil hh, rfl⟩

/-- R133: an in-sequence I-frame whose delivery raises no fault, whatever it does to D and the sink. -/
theorem exec_iFrame_answered (hs : s.pumpsOpen) (hh : s.handlesFrames) (hsorted : s.SentSorted) (hinv : s.h.inv)
    (addr : Octet) (nr : SeqNum) (p : Bool) {info sink : List Octet} {d : Decomp}
    (hd : (s.advanced nr).deliverAll info = { s.advanced nr with d := d, sink := sink }) {reply : List (List Octet)}
    (hreply : reply =
      if p || !s.piggybacks (s.l.ackAfter nr) then [[addr, s.cfg.ctlRr, seqOctet (s.l.rxSeqNum + 1) p]] else []) :
    ∃ t, exec (.iFrame addr s.l.rxSeqNum nr p info now) s = .next t
      ∧ s.h.queued t.h (framesLine reply)
      ∧ t = { s with
          h := t.h
          l := { s.l with
            txSeqAck := s.l.ackAfter nr, sentIFrames := t.l.sentIFrames, rxSeqNum := s.l.rxSeqNum + 1
            inactStart := if reply = [] then s.l.inactStart else now }
          d := d, sink := sink, trace := s.trace ++ s.l.ackEvents nr, result := .none }
      ∧ ∀ q : SeqNum, Cells.lookup t.l.sentIFrames q.toNat = s.l.sentAfter nr q := by
  have hlookup := State.ackIFrame_lookup hsorted nr
  have hhandle := State.handleIFrame_delivered (s := s) (now := now) addr nr p info
  obtain ⟨u, hu⟩ : ∃ u : State, u = { s.advanced nr with d := d, sink := sink } := ⟨_, rfl⟩
  rw [hd, ← hu] at hhandle
  rw [State.advanced_eq] at hu
  have hf : u.l.fault = none := by rw [hu]; exact hs.2
  have hline : u.h = s.h := by rw [hu]
  have hsame : u.rrReply addr p = reply := by
    rw [hreply, State.rrReply, State.canSendIFrame_eq_piggybacks, hu]
    rfl
  rw [if_neg (by simp [hf])] at hhandle
  obtain ⟨hq, hframe⟩ := State.replyRr_queued (s := u) (now := now) (by rw [hline]; exact hinv) addr p
  rw [hsame] at hq hframe
  rw [hline] at hq
  generalize u.replyRr addr p now = t at hhandle hq hframe
  have hft : t.l.fault = none := by rw [hframe]; exact hf
  refine ⟨_, exec_iFrame_noFault hs hh hhandle hft, hq, ?_, fun q => ?_⟩
  · rw [hframe, hu]
  · rw [← hlookup, hframe, hu]

/-! ### Delivery without compression (R133) -/

/-- R150: without compression the octets go to the sink. -/
theorem State.deliverAll_plain (hoff : s.cfg.compEnabled = false) (hf : s.l.fault = none) (xs : List Octet) :
    s.deliverAll xs = { s with sink := s.sink ++ xs } := by
  induction xs generalizing s with
  | nil =>
    rw [List.append_nil]
    rfl
  | cons x xs ih =>
    have hx : s.deliver x = s.sinkWrite x := if_neg (by simp [hoff])
    rw [State.deliverAll, hx, if_neg (by simp [hf]), ih (by exact hoff) (by exact hf)]
    simp only [State.sinkWrite, List.append_assoc, List.singleton_append]

/-- Settles O21: `exec_iFrame_answered`, the octets delivered as `deliverAll_plain` says. -/
theorem inSequenceDelivered : Obligations.InSequenceDelivered := by
  intro s addr nr p info now hs hh _ hsorted hinv hoff reply
  have hd := State.deliverAll_plain (s := s.advanced nr) (by rw [State.advanced_eq]; exact hoff)
    (by rw [State.advanced_eq]; exact hs.2) info
  have hsink : (s.advanced nr).sink = s.sink := by rw [State.advanced_eq]
  have hsame : (s.advanced nr).d = s.d := by rw [State.advanced_eq]
  rw [hsink] at hd
  exact exec_iFrame_answered hs hh hsorted hinv addr nr p (d := s.d) (hd.trans (by rw [← hsame])) rfl

/-- Settles O22: the REJ that `handleIFrame_rejected` sends behind the acknowledgement. -/
theorem outOfSequenceRejected : Obligations.OutOfSequenceRejected := by
  intro s addr ns nr p info now hs hh _ hsorted hinv hns
  have hack := s.ackIFrame_eq nr
  have hlookup := State.ackIFrame_lookup hsorted nr
  have hhandle := State.handleIFrame_rejected (now := now) hns addr nr p info
  have hq := Hdlc.sendFrame_queued hinv [addr, s.cfg.ctlRej, seqOctet s.l.rxSeqNum p]
  rw [State.lSend_eq] at hhandle
  generalize s.ackIFrame nr = a at hack hlookup hhandle
  have hh' : a.h = s.h := by rw [hack]
  have hf : a.l.fault = none := by rw [hack]; exact hs.2
  rw [hh'] at hhandle
  generalize s.h.sendFrame _ = k at hq hhandle
  refine ⟨_, exec_iFrame_noFault hs hh hhandle hf, ?_, ?_, hlookup⟩
  · rw [framesLine_singleton]
    exact hq
  · dsimp only
    rw [hack]

/-! ### Delivery through D (R150, R233) -/

theorem State.sinkWrites_eq (os : List Octet) : os.foldl State.sinkWrite s = { s with sink := s.sink ++ os } := by
  induction os generalizing s with
  | nil =>
    rw [List.append_nil]
    rfl
  | cons o os ih =>
    rw [List.foldl_cons, ih]
    simp only [State.sinkWrite, List.append_assoc, List.singleton_append]

/-- R150: an octet that raises no fault: what D puts out goes to the sink. -/
theorem State.deliver_noFault (hon : s.cfg.compEnabled = true) {x : Octet} (hf : (s.d.write s.cfg x).fault = none) :
    s.deliver x = { s with
      d := { s.d.write s.cfg x with out := [] }, sink := s.sink ++ (s.d.write s.cfg x).out } := by
  rw [State.deliver, if_pos hon]
  dsimp only
  rw [if_neg (by simp [hf]), State.sinkWrites_eq]
  rfl

/-- R150, R233: an octet that raises a fault: L latches it. -/
theorem State.deliver_fault (hon : s.cfg.compEnabled = true) {x : Octet} {e : Fault}
    (hf : (s.d.write s.cfg x).fault = some e) :
    s.deliver x = { s with d := s.d.write s.cfg x, l := { s.l with fault := some e } } := by
  rw [State.deliver, if_pos hon]
  dsimp only
  rw [if_pos (by simp [hf]), hf]
  rfl

/-- `t` is `s` after information octets of which the one behind `done` raised the fault `e`: D has it, L has latched it, and what
the octets `done` gave is delivered (R150, R233). -/
def State.FaultedAt (s t : State) (done : List Octet) (x : Octet) (e : Fault) : Prop :=
  (s.d.writes s.cfg done).fault = none ∧ ((s.d.writes s.cfg done).write s.cfg x).fault = some e
  ∧ t = { s with
      l := { s.l with fault := some e }
      d := { (s.d.writes s.cfg done).write s.cfg x with
        out := ((s.d.writes s.cfg done).write s.cfg x).out.drop (s.d.writes s.cfg done).out.length }
      sink := s.sink ++ (s.d.writes s.cfg done).out }

/-- R150: as long as no octet raises a fault, all that D puts out is delivered. -/
theorem State.deliverAll_noFault (hon : s.cfg.compEnabled = true) (hl : s.l.fault = none) (hout : s.d.out = [])
    {xs : List Octet} (hf : (s.d.writes s.cfg xs).fault = none) :
    s.deliverAll xs = { s with
      d := { s.d.writes s.cfg xs with out := [] }, sink := s.sink ++ (s.d.writes s.cfg xs).out } := by
  induction xs generalizing s with
  | nil =>
    show s = { s with d := { s.d with out := [] }, sink := s.sink ++ s.d.out }
    rw [hout, List.append_nil, ← hout]
  | cons x xs ih =>
    rw [Decomp.writes_cons] at hf ⊢
    have hx : (s.d.write s.cfg x).fault = none := by
      by_contra hne
      exact hne (Decomp.writes_of_fault hne xs ▸ hf)
    have htaken := Decomp.writes_taken (p := s.cfg) (d := s.d.write s.cfg x) xs
    rw [htaken] at hf ⊢
    rw [State.deliverAll, State.deliver_noFault hon hx, if_neg (by simp [hl]),
      ih (s := { s with d := { s.d.write s.cfg x with out := [] }, sink := s.sink ++ (s.d.write s.cfg x).out }) hon hl rfl hf]
    simp only [Decomp.behindOut, List.append_assoc]

/-- R150, R233: the first octet that raises a fault ends the delivery. -/
theorem State.deliverAll_fault (hon : s.cfg.compEnabled = true) (hl : s.l.fault = none) (hd : s.d.fault = none)
    (hout : s.d.out = []) {xs : List Octet} {e : Fault} (hf : (s.d.writes s.cfg xs).fault = some e) :
    ∃ done x rest, xs = done ++ x :: rest ∧ s.FaultedAt (s.deliverAll xs) done x e := by
  induction xs generalizing s with
  | nil => exact absurd (hd.symm.trans hf) nofun
  | cons x xs ih =>
    rw [Decomp.writes_cons] at hf
    rw [State.deliverAll]
    by_cases hx : (s.d.write s.cfg x).fault = none
    · have htaken := Decomp.writes_taken (p := s.cfg) (d := s.d.write s.cfg x)
      rw [htaken] at hf
      rw [State.deliver_noFault hon hx, if_neg (by simp [hl])]
      obtain ⟨done, y, rest, rfl, hdone, hy, ht⟩ := ih
        (s := { s with d := { s.d.write s.cfg x with out := [] }, sink := s.sink ++ (s.d.write s.cfg x).out })
        hon hl hx rfl hf
      refine ⟨x :: done, y, rest, rfl, ?_⟩
      rw [ht, State.FaultedAt, Decomp.writes_cons, htaken, Decomp.write_behindOut]
      refine ⟨hdone, hy, ?_⟩
      simp only [Decomp.behindOut, List.length_append, List.drop_length_add_append, List.append_assoc]
    · rw [Decomp.writes_of_fault hx] at hf
      rw [State.deliver_fault hon hf, if_pos (show (some e).isSome = true from rfl)]
      refine ⟨[], x, xs, rfl, hd, hf, ?_⟩
      show _ = { s with
        l := { s.l with fault := some e }
        d := { s.d.write s.cfg x with out := (s.d.write s.cfg x).out.drop s.d.out.length }
        sink := s.sink ++ s.d.out }
      rw [hout, List.append_nil]
      rfl

/-- Settles O23: `execAll_dWrites` says what D.WRITE of the octets does; `deliverAll_noFault` and `deliverAll_fault` say that
delivery does the same, up to the first fault. -/
theorem compressedDelivery : Obligations.CompressedDelivery := by
  intro s addr nr p info now hs hh hstream _ hsorted hinv hon hout reply
  obtain ⟨r, rs, hrs⟩ := execAll_dWrites hstream.1 info
  have hlookup := State.ackIFrame_lookup hsorted nr
  have hadv := State.advanced_eq (s := s) nr
  have hcfg : (s.advanced nr).cfg = s.cfg := by rw [hadv]
  have hd : (s.advanced nr).d = s.d := by rw [hadv]
  have hl : (s.advanced nr).l.fault = none := by rw [hadv]; exact hs.2
  have hsink : (s.advanced nr).sink = s.sink := by rw [hadv]
  have hon' : (s.advanced nr).cfg.compEnabled = true := by rw [hcfg]; exact hon
  have hout' : (s.advanced nr).d.out = [] := by rw [hd]; exact hout
  cases hf : (s.d.writes s.cfg info).fault with
  | none =>
    have hdeliver := State.deliverAll_noFault hon' hl hout' (xs := info) (by rw [hd, hcfg]; exact hf)
    obtain ⟨t, ht, hq, hframe, hstored⟩ := exec_iFrame_answered hs hh hsorted hinv addr nr p hdeliver rfl
    rw [hd, hcfg, hsink] at hframe
    exact ⟨t, _, rs, ht, hrs, fun _ => ⟨hq, hframe⟩, fun e he => absurd (hf.symm.trans he) nofun, hstored⟩
  | some e =>
    obtain ⟨done, x, rest, hinfo, hdone, hx, hdeliver⟩ := State.deliverAll_fault hon' hl (by rw [hd]; exact hstream.2) hout'
      (xs := info) (e := e) (by rw [hd, hcfg]; exact hf)
    rw [hd, hcfg] at hdone hx
    rw [hd, hcfg, hsink, hadv] at hdeliver
    have hhandle := State.handleIFrame_delivered (s := s) (now := now) addr nr p info
    rw [hadv, hdeliver, if_pos (show (some e).isSome = true from rfl)] at hhandle
    obtain ⟨r', qs, hqs⟩ := execAll_dWrites hstream.1 done
    obtain ⟨r'', hv⟩ := exec_dWrite_written (s := (s.setD (s.d.writes s.cfg done)).answer r') hstream.1 x
    refine ⟨_, _, rs, exec_iFrame hs hh hhandle, hrs, fun hnone => absurd (hf.symm.trans hnone) nofun, fun e' he' => ?_,
      hlookup⟩
    obtain rfl : e = e' := Option.some.inj (hf.symm.trans he')
    exact ⟨done, x, rest, _, qs, _, hinfo, hqs, hdone, hv, hx, rfl⟩

end Sys2Proof.Machine
end


section
/-! SUPPORT. Unit L: an XID information field, read whole (R60, R145). -/

namespace Sys2Proof.Machine

variable {s : State}

/-- R60: a group that fits is read back from its content. -/
theorem XidGroup.parse_of_fits {g : XidGroup} (h : g.fits = true) :
    ∃ gi content, g.octets = xidGroupOctets gi content ∧ content.length < 65536 ∧ XidGroup.parse gi content = some g := by
  cases g with
  | params gi ps =>
    obtain ⟨hlen, hparse⟩ := XidGroup.parse_params h
    exact ⟨gi, _, rfl, hlen, hparse⟩
  | skipped gi content =>
    simp only [XidGroup.fits, Bool.and_eq_true, bne_iff_ne, decide_eq_true_eq] at h
    obtain ⟨⟨hpublic, hprivate⟩, hlen⟩ := h
    exact ⟨gi, content, rfl, hlen, if_neg (by simp [hasXidParams, hpublic, hprivate])⟩

/-- R60, R145: what a content is read as has these octets, and fits. -/
theorem XidGroup.octets_of_parse {gi : Octet} {content : List Octet} {g : XidGroup} (hc : content.length < 65536)
    (h : XidGroup.parse gi content = some g) : g.octets = xidGroupOctets gi content ∧ g.fits = true := by
  rw [XidGroup.parse] at h
  split at h
  · next hgi =>
    obtain ⟨ps, hps, rfl⟩ := Option.map_eq_some_iff.mp h
    obtain ⟨hcontent, hfit⟩ := octets_of_parseXidParams hps
    refine ⟨congrArg (xidGroupOctets gi) hcontent.symm, ?_⟩
    simp only [XidGroup.fits, Bool.and_eq_true, List.all_eq_true, decide_eq_true_eq]
    exact ⟨⟨hgi, hfit⟩, hcontent ▸ hc⟩
  · next hgi =>
    obtain rfl := Option.some.inj h
    refine ⟨rfl, ?_⟩
    simp only [hasXidParams, Bool.or_eq_true, beq_iff_eq, not_or] at hgi
    obtain ⟨hpublic, hprivate⟩ := hgi
    simp [XidGroup.fits, hpublic, hprivate, hc]

/-- R60, R145: groups that fit are read back, given a turn for each group. -/
theorem parseXidGroups_octets {gs : List XidGroup} (hgs : ∀ g ∈ gs, g.fits = true) {fuel : Nat} (hf : gs.length ≤ fuel) :
    parseXidGroups fuel (gs.flatMap XidGroup.octets) = some gs := by
  induction gs generalizing fuel with
  | nil => rw [List.flatMap_nil, parseXidGroups]
  | cons g gs ih =>
    obtain ⟨k, rfl⟩ := Nat.exists_eq_add_of_le' (Nat.one_le_of_lt (Nat.lt_of_lt_of_le (Nat.lt_succ_self _) hf))
    obtain ⟨gi, content, hoctets, hlen, hparse⟩ := XidGroup.parse_of_fits (hgs g List.mem_cons_self)
    rw [List.flatMap_cons, hoctets, parseXidGroups_cons gi hlen, hparse, Option.bind_some,
      ih (fun x hx => hgs x (List.mem_cons_of_mem _ hx)) (by simpa using hf), Option.map_some]

/-- R33, R60: a group's header and content, from the octets that stand in the field. -/
theorem xidGroupOctets_take {hi lo : Octet} {rest : List Octet} (h : natOfOctetsBE [hi, lo] ≤ rest.length) (gi : Octet) :
    gi :: hi :: lo :: rest =
      xidGroupOctets gi (rest.take (natOfOctetsBE [hi, lo])) ++ rest.drop (natOfOctetsBE [hi, lo]) := by
  have hlen : (rest.take (natOfOctetsBE [hi, lo])).length = natOfOctetsBE [hi, lo] := by rw [List.length_take]; omega
  have hpair : octets2BE (natOfOctetsBE [hi, lo]) = [hi, lo] := by
    have hhi := hi.isLt
    have hlo := lo.isLt
    rw [octets2BE, natOfOctetsBE_pair]
    congr 1
    · exact BitVec.eq_of_toNat_eq (by rw [BitVec.toNat_ofNat]; omega)
    · exact congrArg (· :: []) (BitVec.eq_of_toNat_eq (by rw [BitVec.toNat_ofNat]; omega))
  rw [xidGroupOctets, hlen, hpair]
  simp only [List.cons_append, List.nil_append, List.take_append_drop]

/-- R60, R145: what is read as groups is their octets, and each group fits. -/
theorem octets_of_parseXidGroups {fuel : Nat} {field : List Octet} {gs : List XidGroup}
    (h : parseXidGroups fuel field = some gs) : field = gs.flatMap XidGroup.octets ∧ ∀ g ∈ gs, g.fits = true := by
  induction fuel generalizing field gs with
  | zero =>
    cases field with
    | nil =>
      cases h
      exact ⟨rfl, nofun⟩
    | cons o os => simp [parseXidGroups] at h
  | succ k ih =>
    match field, h with
    | [], h =>
      cases h
      exact ⟨rfl, nofun⟩
    | [_], h | [_, _], h => cases h
    | gi :: hi :: lo :: rest, h =>
      by_cases hle : natOfOctetsBE [hi, lo] ≤ rest.length
      · have hc : (rest.take (natOfOctetsBE [hi, lo])).length < 65536 :=
          Nat.lt_of_le_of_lt (List.length_take_le _ _) (natOfOctetsBE_pair_lt hi lo)
        rw [xidGroupOctets_take hle, parseXidGroups_cons gi hc] at h
        obtain ⟨g, hg, hmap⟩ := Option.bind_eq_some_iff.mp h
        obtain ⟨gs', hgs', rfl⟩ := Option.map_eq_some_iff.mp hmap
        obtain ⟨hoctets, hfit⟩ := XidGroup.octets_of_parse hc hg
        obtain ⟨hrest, hfits⟩ := ih hgs'
        rw [xidGroupOctets_take hle, List.flatMap_cons, hoctets, ← hrest]
        exact ⟨rfl, List.forall_mem_cons.mpr ⟨hfit, hfits⟩⟩
      · rw [parseXidGroups] at h
        simp [hle] at h

/-- R60, R145: a field parses exactly where it is the format identifier and groups that fit. -/
theorem parseXid_eq_some_iff {info : List Octet} {gs : List XidGroup} :
    parseXid info = some gs ↔ (∀ g ∈ gs, g.fits = true) ∧ info = Config.xidFi :: gs.flatMap XidGroup.octets := by
  constructor
  · intro h
    match info, h with
    | [], h => cases h
    | fi :: rest, h =>
      rw [parseXid] at h
      split at h
      · next hfi =>
        obtain ⟨hrest, hfits⟩ := octets_of_parseXidGroups h
        exact ⟨hfits, by rw [hfi, hrest]⟩
      · cases h
  · rintro ⟨hfits, rfl⟩
    rw [parseXid, if_pos rfl]
    refine parseXidGroups_octets hfits ?_
    rw [List.length_flatMap]
    refine (Nat.le_of_eq (by simp)).trans (List.sum_le_sum (f := fun _ => 1) fun g hg => ?_)
    obtain ⟨gi, content, hoctets, _⟩ := XidGroup.parse_of_fits (hfits g hg)
    simp [hoctets, xidGroupOctets]

/-- Settles O24: a field parses exactly where it is made of groups that fit (`parseXid_eq_some_iff`). -/
theorem xidLearnedAndEchoed : Obligations.XidLearnedAndEchoed := by
  intro s addr pf info now hs hh hp hinv
  refine ⟨fun gs hgs hinfo => xidArrives_parsed hs hh hp hinv addr pf (parseXid_eq_some_iff.mpr ⟨hgs, hinfo⟩) now,
    fun hnone => xidArrives_malformed hs hh hp addr pf ?_ now⟩
  rw [Option.eq_none_iff_forall_ne_some]
  intro gs hgs
  obtain ⟨hfits, hinfo⟩ := parseXid_eq_some_iff.mp hgs
  exact hnone gs hfits hinfo

end Sys2Proof.Machine
end


section
/-! SUPPORT. Unit L: what a frame that is dropped leaves (42_lapm.md R132), and what a character counts (R127). -/

namespace Sys2Proof.Machine

variable {s : State} {now : Nat}

/-! ### Frames that are dropped (R132, R234) -/

/-- R132: a frame with a bad FCS is logged and dropped. -/
theorem State.handleFrame_badCrc {f : List Octet} (hlen : 4 ≤ f.length) (hfcs : checkFcs f = false) :
    s.handleFrame f now = s.log [.badCrc] := by
  rw [State.handleFrame, if_neg (by omega), if_pos (by rw [hfcs]; rfl)]

/-- R132, R234: an I or S frame without its second control octet is logged and dropped. -/
theorem State.handleFrame_short {f : List Octet} (hfcs : checkFcs f = true) (hlen : f.length = 4)
    (hclass : ((f.getD 1 0).getLsbD 0 && (f.getD 1 0).getLsbD 1) = false) :
    s.handleFrame f now = s.log [.shortFrame] := by
  have hshort : f.length < 5 := by omega
  rw [State.handleFrame, if_neg (by omega), if_neg (by simp [hfcs])]
  by_cases h0 : (f.getD 1 0).getLsbD 0 = false
  · rw [if_pos h0, if_pos hshort]
  · rw [Bool.not_eq_false] at h0
    rw [h0, Bool.true_and] at hclass
    rw [h0, if_neg nofun, if_pos hclass, if_pos hshort]

/-- Settles O28: `lRxBits_frameBits` has the frame handled, and its checks drop it. -/
theorem badFramesDropped : Obligations.BadFramesDropped := by
  intro s f now hs hh hones hcur hcnt hframe
  have hbits := State.lRxBits_frameBits (now := now) hh hs.2 (Hdlc.behindFlag_of_empty hones hcur hcnt hframe) f
  refine ⟨fun hlen => ?_, fun hlen hfcs => ?_, fun hfcs hlen hclass => ?_⟩
  · rw [State.handleFrame_of_lt hlen] at hbits
    exact lineArrives_of_noFault hs hbits hs.2
  · rw [State.handleFrame_badCrc hlen hfcs] at hbits
    exact lineArrives_of_noFault hs hbits hs.2
  · rw [State.handleFrame_short hfcs hlen hclass] at hbits
    exact lineArrives_of_noFault hs hbits hs.2

/-! ### Repetitions of DC1 (R127) -/

/-- The character `d`, behind `n` stop and idle bits, is the next repetition (R127). -/
abbrev Lapm.Repeats (l : Lapm) (d : Octet) (n : Nat) : Prop :=
  (d = 0x11 ∨ d = 0x91) ∧ 1 ≤ l.odpCount.toNat ∧ l.lastOdp ≠ some d ∧ (n = 9 ∨ n = 17)

/-- R127: the count and the last character, in each of the three cases. -/
theorem Lapm.countOdp_repeats (l : Lapm) (d : Octet) (n : Nat) :
    l.countOdp d n = { l with
      odpCount := if l.Repeats d n then l.odpCount + 1 else if d = 0x11 ∨ d = 0x91 then 1 else 0
      lastOdp := if d = 0x11 ∨ d = 0x91 then some d else none } := by
  by_cases hnext : l.Repeats d n
  · rw [Lapm.countOdp_of_continues ((Lapm.continuesOdp_iff l d n).mpr hnext), if_pos hnext, if_pos hnext.1]
  · have hcontinues := mt (Lapm.continuesOdp_iff l d n).mp hnext
    rw [Lapm.countOdp, if_neg hcontinues, if_neg hnext]
    by_cases hd : d = 0x11 ∨ d = 0x91
    · rw [if_pos ((isDc1_iff d).mpr hd), if_pos hd, if_pos hd]
    · rw [if_neg (mt (isDc1_iff d).mp hd), if_neg hd, if_neg hd]

/-- R127: four are counted exactly at the repetition behind three. -/
theorem Lapm.countOdp_eq_four_iff (l : Lapm) (d : Octet) (n : Nat) :
    (l.countOdp d n).odpCount = 4 ↔ l.Repeats d n ∧ l.odpCount = 3 := by
  rw [Lapm.countOdp_repeats]
  by_cases hnext : l.Repeats d n
  · rw [if_pos hnext, and_iff_right hnext]
    exact ⟨fun h => by bv_omega, fun h => by rw [h]; rfl⟩
  · rw [if_neg hnext, iff_false_right (fun h => hnext h.1)]
    dsimp only
    split_ifs
    · decide
    · decide

/-- R127: a character that is no DC1 ends the count. -/
theorem Lapm.countOdp_other (l : Lapm) {d : Octet} (hd : ¬ (d = 0x11 ∨ d = 0x91)) (n : Nat) :
    l.countOdp d n = { l with odpCount := 0, lastOdp := none } := by
  rw [Lapm.countOdp_repeats, if_neg (fun h => hd h.1), if_neg hd, if_neg hd]

/-- R66, R127: the two characters of ADP in Detection end the count. -/
theorem State.lRxBits_adp_detection (hp : s.l.phase = .detection) (ht : now < s.l.detStart + 750)
    (hadp : s.l.adpSent = false) (hf : s.l.fault = none) (hv : s.v.rxState = .idle) :
    s.lRxBits now adpBits = { s with
      v := { s.v with
        rxCurByte := 0x43, rxBitCount := 8, rxStopBits := 9, maxStopBits := 9
        missGap := BitVec.ofNat 3 (min (s.v.missGap.toNat + 2) 5) }
      l := { s.l with odpCount := 0, lastOdp := none } } := by
  have h1 := State.lRxBits_char_detection (now := now) (d := 0x45) (stops := 9) hp ht hadp hf hv
    (by rw [Lapm.countOdp_other _ (by decide)]; show (0 : BitVec 3) ≠ 4; decide) (by decide)
  rw [Lapm.countOdp_other _ (by decide)] at h1
  rw [show adpBits = charBits 0x45 9 ++ charBits 0x43 9 from rfl, State.lRxBits_append _ _ _ _ (by rw [h1]; exact hf), h1,
    State.lRxBits_char_detection (by exact hp) (by exact ht) (by exact hadp) (by exact hf) rfl
      (by rw [Lapm.countOdp_other _ (by decide)]; show (0 : BitVec 3) ≠ 4; decide) (by decide),
    Lapm.countOdp_other _ (by decide), V14.stopsDone_takeRun_dataDone rfl, V14.stopsDone_takeRun_dataDone hv, missGap_twice]

/-- Settles O31: `lRxBits_char_detection` says what a character's bits do, `countOdp_repeats` how the character counts. -/
theorem detectionCounts : Obligations.DetectionCounts := by
  intro s d stops now hs hp hadp hv _ hstops ht dc1 next
  refine ⟨fun hfourth i hi => ?_, ?_⟩
  · have hcount := mt (Lapm.countOdp_eq_four_iff s.l d s.v.maxStopBits).mp hfourth
    have hbits := State.lRxBits_char_detection (now := now) hp ht hadp hs.2 hv hcount hstops
    rw [V14.stopsDone_takeRun_dataDone hv, Lapm.countOdp_repeats] at hbits
    exact (exec_of_encode_line hi).trans (lineArrives_of_noFault hs hbits hs.2)
  · exact lineArrives_of_noFault hs (State.lRxBits_adp_detection hp ht hadp hs.2 hv) hs.2

end Sys2Proof.Machine
end


section
/-! SUPPORT. Unit L: the bit that L.RXBIT hands to V or to H, and what becomes of the answer (42_lapm.md R126, R127, R129). -/

namespace Sys2Proof.Machine

variable {s : State} {now : Nat} {b : Bool}

/-! ### Bits that go to H -/

/-- R126, R129: in None and Detection after ADP a bit goes to H. -/
theorem State.lRxBit_adpSent (hadp : s.l.adpSent = true)
    (hp : s.l.phase = .none ∨ (s.l.phase = .detection ∧ now < s.l.detStart + 750)) :
    s.lRxBit b now = (s.setH (s.h.rxBit b).1).onHdlc (s.h.rxBit b).2 now := by
  rcases hp with hp | ⟨hp, ht⟩
  · simp only [State.lRxBit, checkDetectionTimer_of_ne (show s.l.phase ≠ .detection by simp [hp]), hp, hadp, if_true,
      State.hBit]
  · exact State.lRxBit_hdlc (.inr ⟨hp, hadp, ht⟩) b

/-- R129: while L waits for a flag, a frame is the flag. -/
theorem State.onHdlc_waiting_frame (hp : s.l.phase = .none ∨ s.l.phase = .detection) (f : List Octet) :
    s.onHdlc (.frame f) now = s.enterEstablish now := by
  rcases hp with hp | hp
  · simp only [State.onHdlc, hp]
  · simp only [State.onHdlc, hp]

/-- R129: while L waits for a flag, an abort is ignored. -/
theorem State.onHdlc_waiting_abort (hp : s.l.phase = .none ∨ s.l.phase = .detection) : s.onHdlc .abort now = s := by
  rcases hp with hp | hp
  · simp only [State.onHdlc, hp]
  · simp only [State.onHdlc, hp]

/-- R132: where frames are handled, an abort is logged. -/
theorem State.onHdlc_handled_abort (hh : s.handlesFrames) : s.onHdlc .abort now = s.log [.abort] := by
  rcases hh with hp | hp
  · simp only [State.onHdlc, hp]
  · simp only [State.onHdlc, hp]

/-! ### Bits that go to V -/

/-- R131: in phase V14 the character that the bit completes goes to the sink. -/
theorem State.lRxBit_v14 (hp : s.l.phase = .v14) {v : V14} {char : Option Octet} {events : List Event}
    (hb : s.v.rxBit b = ⟨v, char, events⟩) :
    s.lRxBit b now = { s with v := v, trace := s.trace ++ events, sink := s.sink ++ char.toList } := by
  rw [State.lRxBit_pass hp, State.passBit, State.vBit_eq, hb]
  cases char with
  | none =>
    simp only [Option.toList_none, List.append_nil]
  | some c => rfl

/-- R127: before ADP a bit that completes no character changes V alone. -/
theorem State.detectBit_none {v : V14} {events : List Event} (hb : s.v.rxBit b = ⟨v, none, events⟩) :
    s.detectBit b now = { s with v := v, trace := s.trace ++ events } := by
  rw [State.detectBit, State.vBit_eq, hb]

/-- R127: in phase None a character decides the phase. -/
theorem State.detectBit_first (hp : s.l.phase = .none) {v : V14} {c : Octet} {events : List Event}
    (hb : s.v.rxBit b = ⟨v, some c, events⟩) :
    s.detectBit b now = { s with
      v := v.takeRun
      trace := s.trace ++ events
      l := if c = 0x11 ∨ c = 0x91
        then { s.l with phase := .detection, detStart := now, odpCount := 1, lastOdp := some c }
        else { s.l with phase := .v14 }
      sink := if c = 0x11 ∨ c = 0x91 then s.sink else s.sink ++ [c] } := by
  rw [State.detectBit, State.vBit_eq, hb]
  refine (if_pos hp).trans ?_
  rw [State.firstChar]
  by_cases hc : c = 0x11 ∨ c = 0x91
  · rw [if_pos ((isDc1_iff c).mpr hc), if_pos hc, if_pos hc]
    rfl
  · rw [if_neg (mt (isDc1_iff c).mp hc), if_neg hc, if_neg hc]
    rfl

/-- R127: in Detection a character is counted, with the run of 1s before it. -/
theorem State.detectBit_next (hp : s.l.phase = .detection) {v : V14} {c : Octet} {events : List Event}
    (hb : s.v.rxBit b = ⟨v, some c, events⟩) :
    s.detectBit b now =
      State.nextChar { s with v := v.takeRun, trace := s.trace ++ events } c v.maxStopBits := by
  rw [State.detectBit, State.vBit_eq, hb]
  exact if_neg (by simp [hp])

/-- R127: a character that is no fourth repetition. -/
theorem State.nextChar_counts {c : Octet} {n : Nat} (h : ¬ (s.l.Repeats c n ∧ s.l.odpCount = 3)) :
    s.nextChar c n = { s with l := s.l.countOdp c n } := by
  rw [State.nextChar, if_neg (by exact mt (Lapm.countOdp_eq_four_iff s.l c n).mp h)]
  rfl

/-- R127, R128: the fourth repetition queues ADP. -/
theorem State.nextChar_fourth {c : Octet} {n : Nat} (h : s.l.Repeats c n) (h3 : s.l.odpCount = 3) (hv : s.v.inv) :
    ∃ k, { s.v with txStopBits := 9 }.queued k (charBits 0x45 9 ++ charBits 0x43 9)
      ∧ s.nextChar c n = { s with v := k, l := { s.l with odpCount := 4, lastOdp := some c, adpSent := true } } := by
  have hcount := Lapm.countOdp_of_continues ((Lapm.continuesOdp_iff s.l c n).mpr h)
  have hq := V14.adp_queued hv
  refine ⟨_, hq, ?_⟩
  rw [State.nextChar, hcount, h3, if_pos (by rfl), State.sendAdp_eq]
  rfl

/-- R233: what L.RXBIT leaves where it raises no fault: nothing is answered. -/
theorem State.lRxBit_answer_noFault {t : State} (ht : s.lRxBit b now = t) (hf : t.l.fault = none) :
    (s.lRxBit b now).answer (faultOr (s.lRxBit b now).l.fault .none) = { t with result := .none } := by
  rw [ht, hf]
  rfl

/-- R31: what a frame does, and what is then answered, does not depend on the answer before. -/
theorem State.handleFrame_answer_answer (f : List Octet) (r r' : Result) :
    ((s.answer r).handleFrame f now).answer r' = (s.handleFrame f now).answer r' := by
  rw [State.handleFrame_answer]
  rfl

/-- Settles O35: V and H by their own operations, then what each phase makes of the answer. -/
theorem lRxbitByPhase : Obligations.LRxbitByPhase := by
  intro s b now hs hwv hwh hdet
  obtain ⟨k, r, hkr⟩ : ∃ k r, s.h.rxBit b = (k, r) := ⟨_, _, rfl⟩
  obtain ⟨v, char, events, hvc⟩ : ∃ v char events, s.v.rxBit b = ⟨v, char, events⟩ := ⟨_, _, _, rfl⟩
  have hexecV := exec_v14Rxbit hwv b
  rw [hvc] at hexecV
  refine ⟨_, _, _, exec_lRxbit_open hs b now, hexecV, exec_hRxbit_of_rxBit hwh hkr, fun hp => ?_, fun hp => ?_,
    fun hh => ?_, fun hp => ?_⟩
  · rw [State.lRxBit_answer_noFault (State.lRxBit_v14 hp hvc) hs.2, ← octets_charAnswer]
    rfl
  · exact State.lRxBit_answer_noFault (State.lRxBit_release hp b) hs.2
  · have hbit := State.lRxBit_hdlc (now := now) (.inl hh) b
    rw [hkr] at hbit
    cases r with
    | frame f =>
      refine ⟨fun g hg => ?_, fun hne => absurd rfl (hne f)⟩
      obtain rfl : f = g := Result.frame.inj hg
      rw [hbit, State.onHdlc_frame_handled (by exact hh)]
      rw [hdlcEvents, List.append_nil]
      exact (State.handleFrame_answer_answer (s := s.setH k) f (.frame f) _).symm
    | none =>
      rw [State.onHdlc_none] at hbit
      refine ⟨nofun, fun _ => ?_⟩
      rw [State.lRxBit_answer_noFault hbit hs.2, hdlcEvents, List.append_nil]
      rfl
    | abort =>
      rw [State.onHdlc_handled_abort (by exact hh)] at hbit
      exact ⟨nofun, fun _ => (State.lRxBit_answer_noFault hbit hs.2).trans rfl⟩
  · have hwaits : s.l.phase = .none ∨ (s.l.phase = .detection ∧ now < s.l.detStart + 750) :=
      hp.imp_right fun hd => ⟨hd, hdet hd⟩
    refine ⟨fun hadp => ?_, fun hadp => ?_⟩
    · have hbit := State.lRxBit_adpSent (b := b) hadp hwaits
      rw [hkr] at hbit
      cases r with
      | frame f =>
        rw [State.onHdlc_waiting_frame (by exact hp)] at hbit
        refine ⟨fun g hg => ?_, fun hne => absurd rfl (hne f)⟩
        rw [State.lRxBit_answer_noFault hbit hs.2, hdlcEvents, List.append_nil]
        rfl
      | none =>
        rw [State.onHdlc_none] at hbit
        exact ⟨nofun, fun _ => State.lRxBit_answer_noFault hbit hs.2⟩
      | abort =>
        rw [State.onHdlc_waiting_abort (by exact hp)] at hbit
        exact ⟨nofun, fun _ => State.lRxBit_answer_noFault hbit hs.2⟩
    · have hbit := State.lRxBit_detect (now := now) hadp hwaits b
      cases char with
      | none =>
        rw [State.detectBit_none hvc] at hbit
        exact ⟨fun _ => State.lRxBit_answer_noFault hbit hs.2, nofun⟩
      | some c =>
        refine ⟨nofun, fun c' hc' => ?_⟩
        obtain rfl : c = c' := Result.octet.inj hc'
        refine ⟨fun hp => ?_, fun hp hnot => ?_, fun hp hfourth hv => ?_⟩
        · rw [State.detectBit_first hp hvc] at hbit
          refine State.lRxBit_answer_noFault hbit ?_
          dsimp only
          split_ifs <;> exact hs.2
        · rw [State.detectBit_next hp hvc, State.nextChar_counts (by exact hnot), Lapm.countOdp_repeats] at hbit
          exact State.lRxBit_answer_noFault hbit hs.2
        · obtain ⟨hrepeats, h3⟩ := hfourth
          have hinv : v.takeRun.inv := by
            have h := V14.rxBit_inv hv b
            rw [hvc] at h
            exact h
          obtain ⟨k, hq, hnext⟩ := State.nextChar_fourth
            (s := { s with v := v.takeRun, trace := s.trace ++ events }) (n := v.maxStopBits) hrepeats h3 hinv
          rw [State.detectBit_next hp hvc, hnext] at hbit
          rw [State.lRxBit_answer_noFault hbit hs.2]
          exact ⟨hq, rfl⟩

end Sys2Proof.Machine
end


section
/-! SUPPORT. Unit L: the line bit that L.TXBIT takes from V or H, and what the queue is filled with (42_lapm.md R144, R148,
R149). -/

namespace Sys2Proof.Machine

variable {s : State} {now : Nat} {h : Hdlc} {v : V14}

/-! ### PopBit (R149) -/

/-- R31: an octet's line bits from the one at `n` on, with what follows them. -/
theorem drop_octetBits_append (o : Octet) {n : Nat} (hn : n < 8) (rest : List Bool) :
    (octetBits o ++ rest).drop n = o.getLsbD n :: (octetBits o ++ rest).drop (n + 1) := by
  interval_cases n
  all_goals rfl

/-- R149: PopBit takes the first of the bits that wait, and the others wait in the queue that it leaves. -/
theorem drop_octetsBits_pop {q : List Octet} (hq : q ≠ []) (pos : BitVec 3) (rest : List Bool) :
    (octetsBits q ++ rest).drop pos.toNat =
      headBit q pos :: (octetsBits (tailBit q pos) ++ rest).drop (pos + 1).toNat := by
  obtain ⟨o, os, rfl⟩ := List.exists_cons_of_ne_nil hq
  have hpos : pos.toNat < 8 := pos.isLt
  rw [octetsBits_cons, List.append_assoc, drop_octetBits_append o hpos]
  refine congrArg (headBit (o :: os) pos :: ·) ?_
  by_cases h7 : pos = 7
  · rw [tailBit, if_pos h7, h7]
    rfl
  · have hnext : (pos + 1).toNat = pos.toNat + 1 := by bv_omega
    rw [tailBit, if_neg h7, hnext, octetsBits_cons, List.append_assoc]

/-- R149: the bit from V's queue, and those that still wait. -/
theorem State.popV_waiting (hq : s.v.txQueue ≠ []) :
    headBit s.v.txQueue s.l.txBitPos :: s.popV.waitingV = s.waitingV :=
  (drop_octetsBits_pop hq s.l.txBitPos _).symm

/-- R149: the bit from H's queue, and those that still wait. -/
theorem State.popH_waiting (hq : s.h.txBuffer ≠ []) :
    headBit s.h.txBuffer s.l.txBitPos :: s.popH.waitingH = s.waitingH :=
  (drop_octetsBits_pop hq s.l.txBitPos _).symm

/-- L.TXBIT of open pumps (R144). -/
theorem exec_lTxbit_open (hs : s.pumpsOpen) {t : State} {b : Bool} (ht : s.lTxBit now = (t, b)) :
    exec (.lTxbit now) s = .next { t with result := .bit b } := by
  show lPump s (done (s.lTxBit now).1 (.bit (s.lTxBit now).2)) = _
  rw [lPump_open hs, ht]
  rfl

/-! ### V's queue -/

/-- R31: V with eight line bits has a whole octet queued. -/
theorem V14.txQueue_ne_nil (hlen : 8 ≤ v.lineBits.length) : v.txQueue ≠ [] := by
  intro hq
  have hlt : v.txBitCount.toNat < 8 := v.txBitCount.isLt
  rw [V14.lineBits_length, hq, List.length_nil] at hlen
  omega

/-- R10: with nothing queued V is as it was. -/
theorem V14.queued_nil (hv : v.inv) : v.queued v [] := ⟨(List.append_nil _).symm, hv, rfl⟩

/-- Whether L.TXBIT takes a source octet to V (R144). -/
abbrev State.sendsOctet (s : State) : Bool :=
  decide (s.v.txQueue = []) && decide (s.l.phase = .v14) && decide (s.source ≠ [])

/-- The line bits that V's queue is filled with (R144). -/
abbrev State.fillV (s : State) : List Bool :=
  if s.v.txQueue ≠ [] then []
  else if s.sendsOctet then charBits (s.source.headD 0) s.v.txStopBits
  else List.replicate (8 - s.v.txBitCount.toNat) true

/-- The state behind the refill of V's queue in the phases of V: the queue has a bit to give. -/
abbrev State.RefilledV (s t : State) : Prop :=
  s.v.queued t.v s.fillV ∧ t.v.txQueue ≠ []
  ∧ t = { s with v := t.v, source := if s.sendsOctet then s.source.tail else s.source }

/-- R144: a queue that holds something is left as it is. -/
theorem State.refilledV_of_ne (hv : s.v.inv) (hq : s.v.txQueue ≠ []) : s.RefilledV s := by
  have hsends : s.sendsOctet = false := by simp [State.sendsOctet, hq]
  rw [State.RefilledV, State.fillV, if_pos hq, hsends]
  exact ⟨V14.queued_nil hv, hq, rfl⟩

/-- R83, R144: an empty queue is filled with 1s up to an octet, where no source octet is sent. -/
theorem State.refilledV_flush (hv : s.v.inv) (hq : s.v.txQueue = []) (hsends : s.sendsOctet = false) :
    s.RefilledV { s with v := s.v.flush } := by
  obtain ⟨hqueued, -, hlen⟩ := V14.flush_queued hv
  rw [State.RefilledV, State.fillV, if_neg (not_not.mpr hq), hsends]
  exact ⟨hqueued, List.ne_nil_of_length_eq_add_one hlen, rfl⟩

/-- R144: in None and Detection V idles. -/
theorem State.refillIdle_refilledV (hv : s.v.inv) (hp : s.l.phase ≠ .v14) : s.RefilledV s.refillIdle := by
  unfold State.refillIdle
  by_cases hq : s.v.txQueue = []
  · rw [if_pos (List.isEmpty_iff.mpr hq)]
    exact State.refilledV_flush hv hq (by simp [State.sendsOctet, hp])
  · rw [if_neg (mt List.isEmpty_iff.mp hq)]
    exact State.refilledV_of_ne hv hq

/-- R82, R144: in phase V14 an empty queue is filled with a source octet's character. -/
theorem State.refilledV_tx (hv : s.v.inv) (hp : s.l.phase = .v14) (hq : s.v.txQueue = []) {b : Octet} {rest : List Octet}
    (hsource : s.source = b :: rest) : s.RefilledV { s with v := s.v.tx b, source := rest } := by
  have hqueued := V14.tx_queued hv b
  have hsends : s.sendsOctet = true := by simp [State.sendsOctet, hq, hp, hsource]
  have hne : (s.v.tx b).txQueue ≠ [] := by
    refine V14.txQueue_ne_nil ?_
    rw [hqueued.1, List.length_append, charBits, List.length_cons, List.length_append, octetBits_length]
    omega
  generalize s.v.tx b = k at hqueued hne ⊢
  rw [State.RefilledV, State.fillV, if_neg (not_not.mpr hq), hsends, hsource]
  exact ⟨hqueued, hne, rfl⟩

/-- R144: in phase V14 a source octet is sent, if there is one. -/
theorem State.refillV_refilledV (hv : s.v.inv) (hp : s.l.phase = .v14) : s.RefilledV s.refillV := by
  unfold State.refillV
  by_cases hq : s.v.txQueue = []
  · rw [if_pos (List.isEmpty_iff.mpr hq)]
    cases hsource : s.source with
    | nil => exact State.refilledV_flush hv hq (by simp [State.sendsOctet, hsource])
    | cons b rest => exact State.refilledV_tx hv hp hq hsource
  · rw [if_neg (mt List.isEmpty_iff.mp hq)]
    exact State.refilledV_of_ne hv hq

/-- R144: in the phases of V L.TXBIT pops V's queue, once it has a bit to give. -/
theorem State.lTxBit_refilledV (hv : s.v.inv) (hp : s.l.phase = .none ∨ s.l.phase = .detection ∨ s.l.phase = .v14)
    (ht : s.l.phase = .detection → now < s.l.detStart + 750) :
    ∃ t, s.RefilledV t ∧ s.lTxBit now = (t.popV, headBit t.v.txQueue t.l.txBitPos) := by
  have hcheck : s.checkDetectionTimer now = s := by
    by_cases hd : s.l.phase = .detection
    · exact checkDetectionTimer_of_lt (ht hd)
    · exact checkDetectionTimer_of_ne hd
  unfold State.lTxBit
  rw [hcheck]
  rcases hp with hp | hp | hp
  · exact ⟨_, State.refillIdle_refilledV hv (by simp [hp]), by simp only [hp]⟩
  · exact ⟨_, State.refillIdle_refilledV hv (by simp [hp]), by simp only [hp]⟩
  · exact ⟨_, State.refillV_refilledV hv hp, by simp only [hp]⟩

/-- Settles O36: the refill (`lTxBit_refilledV`), then PopBit (`popV_waiting`). -/
theorem txbitFromV : Obligations.TxbitFromV := by
  intro s now hs hv hp ht sends fill
  obtain ⟨u, ⟨⟨hline, hinv, hframe⟩, hne, hu⟩, hpop⟩ := State.lTxBit_refilledV (now := now) hv hp ht
  refine ⟨_, headBit u.v.txQueue u.l.txBitPos, exec_lTxbit_open hs hpop, ?_, hinv, ?_⟩
  · refine (State.popV_waiting hne).trans ?_
    rw [State.waitingV, hline, hu]
  · rw [State.popV_eq, hu]
    dsimp only
    rw [hframe]

end Sys2Proof.Machine
end


section
/-! SUPPORT. Unit L: what H's queue is filled with (42_lapm.md R144, R148, R151). -/

namespace Sys2Proof.Machine

variable {s : State} {now : Nat} {h : Hdlc}

/-! ### H's queue -/

/-- R31: there are eight line bits for each queued octet, and those pending. -/
theorem Hdlc.lineBits_length (h : Hdlc) : h.lineBits.length = 8 * h.txBuffer.length + h.txCnt.toNat := by
  have hlt : h.txCnt.toNat < 8 := h.txCnt.isLt
  rw [Hdlc.lineBits, List.length_append, octetsBits_length, List.length_take, octetBits_length]
  omega

/-- R31: H with eight line bits has a whole octet queued. -/
theorem Hdlc.txBuffer_ne_nil (hlen : 8 ≤ h.lineBits.length) : h.txBuffer ≠ [] := by
  intro hq
  have hlt : h.txCnt.toNat < 8 := h.txCnt.isLt
  rw [Hdlc.lineBits_length, hq, List.length_nil] at hlen
  omega

/-- R104: a frame is at least its flags, so H has a whole octet queued behind it. -/
theorem Hdlc.sendFrame_txBuffer_ne_nil (hh : h.inv) (f : List Octet) : (h.sendFrame f).txBuffer ≠ [] := by
  refine Hdlc.txBuffer_ne_nil ?_
  rw [(Hdlc.sendFrame_queued hh f).1, frameBits, List.length_append, List.length_append]
  have hflag : flagBits.length = 8 := rfl
  omega

/-- R102: the same behind a flag. -/
theorem Hdlc.sendFlag_txBuffer_ne_nil (hh : h.inv) : h.sendFlag.txBuffer ≠ [] := by
  refine Hdlc.txBuffer_ne_nil ?_
  rw [(Hdlc.sendFlag_lineBits hh).1, List.length_append]
  exact Nat.le_add_left 8 _

/-- R144: in Establish and Connected L.TXBIT pops H's queue, once it is refilled. -/
theorem State.lTxBit_handles (hh : s.handlesFrames) :
    s.lTxBit now = ((s.refillH now).popH, headBit (s.refillH now).h.txBuffer (s.refillH now).l.txBitPos) := by
  unfold State.lTxBit
  rw [checkDetectionTimer_of_ne hh.phase_ne_detection]
  rcases hh with hp | hp
  · simp only [hp]
  · simp only [hp]

/-! ### The keepalive and the flag -/

/-- Whether L.TXBIT sends the keepalive (R148). -/
abbrev State.sendsKeepalive (s : State) (now : Nat) : Bool :=
  decide (s.h.txBuffer = []) && decide (s.l.inactStart + 1000 ≤ now)

/-- The line bits that H's queue is filled with, where no I-frame is sent (R144, R148). -/
abbrev State.fillH (s : State) (now : Nat) : List Bool :=
  if s.h.txBuffer ≠ [] then []
  else if s.sendsKeepalive now then
    frameBits (withFcs [s.cfg.addrCmd, s.cfg.ctlRr, seqOctet s.l.rxSeqNum s.cfg.keepaliveP])
  else flagBits

/-- The state behind the refill of H's queue, where no I-frame is sent: the queue has a bit to give. -/
abbrev State.RefilledH (s t : State) (now : Nat) : Prop :=
  s.h.queued t.h (s.fillH now) ∧ t.h.txBuffer ≠ []
  ∧ t = { s with h := t.h, l := { s.l with inactStart := if s.sendsKeepalive now then now else s.l.inactStart } }

/-- R144: a queue that holds something is left as it is. -/
theorem State.refilledH_of_ne (hh : s.h.inv) (hq : s.h.txBuffer ≠ []) : s.RefilledH s now := by
  have hkeep : s.sendsKeepalive now = false := by simp [State.sendsKeepalive, hq]
  rw [State.RefilledH, State.fillH, if_pos hq, hkeep]
  exact ⟨Hdlc.queued_nil hh, hq, rfl⟩

/-- R148: the keepalive. -/
theorem State.refilledH_keepalive (hh : s.h.inv) (hq : s.h.txBuffer = []) (ht : s.l.inactStart + 1000 ≤ now) :
    s.RefilledH (s.lSend [s.cfg.addrCmd, s.cfg.ctlRr, seqOctet s.l.rxSeqNum s.cfg.keepaliveP] now) now := by
  have hkeep : s.sendsKeepalive now = true := by simp [State.sendsKeepalive, hq, ht]
  have hqueued := Hdlc.sendFrame_queued hh [s.cfg.addrCmd, s.cfg.ctlRr, seqOctet s.l.rxSeqNum s.cfg.keepaliveP]
  have hne := Hdlc.sendFrame_txBuffer_ne_nil hh [s.cfg.addrCmd, s.cfg.ctlRr, seqOctet s.l.rxSeqNum s.cfg.keepaliveP]
  rw [State.lSend_eq]
  generalize s.h.sendFrame _ = k at hqueued hne ⊢
  rw [State.RefilledH, State.fillH, if_neg (not_not.mpr hq), hkeep]
  exact ⟨hqueued, hne, rfl⟩

/-- R144: before the keepalive is due, a flag. -/
theorem State.refilledH_flag (hh : s.h.inv) (hq : s.h.txBuffer = []) (ht : ¬ s.l.inactStart + 1000 ≤ now) :
    s.RefilledH (s.setH s.h.sendFlag) now := by
  have hkeep : s.sendsKeepalive now = false := by simp [State.sendsKeepalive, ht]
  have hqueued : s.h.queued s.h.sendFlag flagBits := Hdlc.sendFlag_queued hh
  have hne := Hdlc.sendFlag_txBuffer_ne_nil hh
  generalize s.h.sendFlag = k at hqueued hne ⊢
  rw [State.RefilledH, State.fillH, if_neg (not_not.mpr hq), hkeep]
  exact ⟨hqueued, hne, rfl⟩

/-- R144, R148: the refill, where no I-frame is to be sent. -/
theorem State.refillH_refilledH (hh : s.h.inv) (hi : s.h.txBuffer = [] → s.piggybacks s.l.txSeqAck = false) :
    s.RefilledH (s.refillH now) now := by
  unfold State.refillH
  by_cases hq : s.h.txBuffer = []
  · rw [if_pos (List.isEmpty_iff.mpr hq), State.canSendIFrame_eq_piggybacks, if_neg (by simp [hi hq])]
    by_cases ht : s.l.inactStart + 1000 ≤ now
    · rw [if_pos (show timerExpired _ Config.t403 _ = true from decide_eq_true ht)]
      exact State.refilledH_keepalive hh hq ht
    · rw [if_neg (show ¬ timerExpired _ Config.t403 _ = true from mt of_decide_eq_true ht)]
      exact State.refilledH_flag hh hq ht
  · rw [if_neg (mt List.isEmpty_iff.mp hq)]
    exact State.refilledH_of_ne hh hq

/-- Settles O37: the refill (`refillH_refilledH`), then PopBit (`popH_waiting`). -/
theorem txbitFromH : Obligations.TxbitFromH := by
  intro s now hs hh hp hi keepalive fill
  have hpop := State.lTxBit_handles (now := now) hp
  obtain ⟨⟨hline, hinv, hones, hframe⟩, hne, hu⟩ := State.refillH_refilledH (now := now) hh hi
  generalize s.refillH now = u at *
  refine ⟨_, headBit u.h.txBuffer u.l.txBitPos, exec_lTxbit_open hs hpop, ?_, hinv, ?_⟩
  · refine (State.popH_waiting hne).trans ?_
    rw [State.waitingH, hline, hu]
  · rw [State.popH_eq, hu]
    dsimp only
    rw [hframe, hones]

/-! ### Release -/

/-- R101: a bit behind the seventh pending one completes the octet. -/
theorem Hdlc.txCnt_rawBit_seven (h7 : h.txCnt = 7) (b : Bool) : (h.rawBit b).txCnt = 0 := by
  simp only [Hdlc.rawBit, if_pos h7]

/-- R101: any other bit is one more. -/
theorem Hdlc.txCnt_rawBit_of_ne (h7 : h.txCnt ≠ 7) (b : Bool) : (h.rawBit b).txCnt = h.txCnt + 1 := by
  simp only [Hdlc.rawBit, if_neg h7]

/-- R144: with no octet in part there is nothing to complete. -/
theorem Hdlc.fillOnes_of_zero (h0 : h.txCnt = 0) (fuel : Nat) : Hdlc.fillOnes fuel h = h := by
  cases fuel with
  | zero => rfl
  | succ n => rw [Hdlc.fillOnes, if_pos h0]

/-- R144: with turns enough, the loop sends as many 1s as the octet in part lacks. -/
theorem Hdlc.fillOnes_eq (fuel : Nat) (hne : h.txCnt ≠ 0) (hfuel : 8 - h.txCnt.toNat ≤ fuel) :
    Hdlc.fillOnes fuel h = (List.replicate (8 - h.txCnt.toNat) true).foldl Hdlc.rawBit h := by
  have hlt : h.txCnt.toNat < 8 := h.txCnt.isLt
  induction fuel generalizing h with
  | zero => omega
  | succ n ih =>
    rw [Hdlc.fillOnes, if_neg hne]
    by_cases h7 : h.txCnt = 7
    · rw [Hdlc.fillOnes_of_zero (Hdlc.txCnt_rawBit_seven h7 true), h7]
      rfl
    · have hcnt := Hdlc.txCnt_rawBit_of_ne h7 true
      have hnat : (h.rawBit true).txCnt.toNat = h.txCnt.toNat + 1 := by
        rw [hcnt]
        bv_omega
      have hones : 8 - h.txCnt.toNat = 8 - (h.rawBit true).txCnt.toNat + 1 := by omega
      rw [ih (by rw [hcnt]; bv_omega) (by omega) (by omega), hones, List.replicate_succ, List.foldl_cons]

/-- R144: in Release L.TXBIT pops H's queue, its last octet completed, and idles at 1 where nothing is left. -/
theorem State.lTxBit_release (hp : s.l.phase = .release) :
    s.lTxBit now =
      if s.refillRelease.h.txBuffer.isEmpty then (s.refillRelease, true)
      else (s.refillRelease.popH, headBit s.refillRelease.h.txBuffer s.refillRelease.l.txBitPos) := by
  unfold State.lTxBit
  rw [checkDetectionTimer_of_ne (show s.l.phase ≠ .detection by simp [hp])]
  simp only [hp]

/-- R144, R151: the refill in Release, where there is something to drain. -/
theorem State.refillRelease_drains (hh : s.h.inv) (hsome : s.h.txBuffer ≠ [] ∨ s.h.txCnt ≠ 0) :
    ∃ k, s.refillRelease = s.setH k ∧ k.txBuffer ≠ [] ∧ k.inv
      ∧ k.lineBits =
        s.h.lineBits ++ (if s.h.txBuffer = [] then List.replicate (8 - s.h.txCnt.toNat) true else [])
      ∧ k = { s.h with txBuffer := k.txBuffer, txCur := k.txCur, txCnt := k.txCnt } := by
  unfold State.refillRelease
  by_cases hq : s.h.txBuffer = []
  · rw [if_pos (List.isEmpty_iff.mpr hq), if_pos hq]
    have hcnt : s.h.txCnt ≠ 0 := hsome.resolve_left (not_not.mpr hq)
    obtain ⟨hline, hinv, hframe⟩ := Hdlc.rawBits_lineBits hh (List.replicate (8 - s.h.txCnt.toNat) true)
    rw [← Hdlc.fillOnes_eq 8 hcnt (Nat.sub_le _ _)] at hline hinv hframe
    refine ⟨_, rfl, Hdlc.txBuffer_ne_nil ?_, hinv, hline, hframe⟩
    rw [hline, List.length_append, Hdlc.lineBits_length, List.length_replicate]
    have hlt : s.h.txCnt.toNat < 8 := s.h.txCnt.isLt
    omega
  · rw [if_neg (mt List.isEmpty_iff.mp hq), if_neg hq]
    exact ⟨s.h, rfl, hq, hh, (List.append_nil _).symm, rfl⟩

/-- Settles O39: what `refillRelease_drains` leaves is popped (`popH_waiting`); with nothing left the line idles. -/
theorem releaseDrains : Obligations.ReleaseDrains := by
  intro s now hs hh hp
  have hpop := State.lTxBit_release (now := now) hp
  refine ⟨fun ⟨hq, hcnt⟩ => ?_, fun hsome => ?_⟩
  · have hkeep : s.refillRelease = s := by
      rw [State.refillRelease, if_pos (List.isEmpty_iff.mpr hq), Hdlc.fillOnes_of_zero hcnt]
      rfl
    rw [hkeep, if_pos (List.isEmpty_iff.mpr hq)] at hpop
    exact exec_lTxbit_open hs hpop
  · obtain ⟨k, hk, hne, hinv, hline, hframe⟩ := State.refillRelease_drains hh hsome
    rw [hk, State.setH_h, if_neg (mt List.isEmpty_iff.mp hne)] at hpop
    refine ⟨_, headBit k.txBuffer s.l.txBitPos, exec_lTxbit_open hs hpop, ?_, hinv, ?_⟩
    · refine (State.popH_waiting (s := s.setH k) hne).trans ?_
      rw [State.waitingH, State.setH_h, hline]
      rfl
    · rw [State.popH_eq, hframe]
      rfl

end Sys2Proof.Machine
end


section
/-! SUPPORT. Unit L: the I-frame that L.TXBIT sends and stores (42_lapm.md R143, R150). -/

namespace Sys2Proof.Machine

variable {s : State} {now : Nat}

/-- C behind the octets of one frame and the flush that ends it (R150). -/
def Comp.frameDone (p : Params) (c : Comp) (octets : List Octet) : Comp := (octets.foldl (Comp.write p) c).flush p

theorem exec_cWrite (hw : s.written.c = true) (b : Octet) :
    exec (.cWrite b) s = .next ((s.setC (s.c.write s.cfg b)).answer .none) := whenWritten_of_written hw _

theorem exec_cFlush (hw : s.written.c = true) : exec .cFlush s = .next ((s.setC (s.c.flush s.cfg)).answer .none) :=
  whenWritten_of_written hw _

/-- R150: C.WRITE of the octets and C.FLUSH, one after another. -/
theorem execAll_frameDone (hw : s.written.c = true) (octets : List Octet) :
    ∃ rs, execAll (octets.map .cWrite ++ [.cFlush]) s = some ((s.setC (s.c.frameDone s.cfg octets)).answer .none, rs) := by
  induction octets generalizing s with
  | nil => exact ⟨_, execAll_cons (exec_cFlush hw)⟩
  | cons b bs ih =>
    obtain ⟨rs, hbs⟩ := ih (s := (s.setC (s.c.write s.cfg b)).answer .none) hw
    exact ⟨_ :: rs, by rw [List.map_cons, List.cons_append, execAll_cons (exec_cWrite hw b), hbs]; rfl⟩

/-- R150: the information of a frame, and what it leaves of C and of the source. -/
theorem State.gather_eq (s : State) (k : Nat) :
    ∃ payload c, s.gather k = (payload, { s with c := c, source := s.source.drop k })
      ∧ (s.cfg.compEnabled = false → payload = s.source.take k ∧ c = s.c)
      ∧ (s.cfg.compEnabled = true →
          payload = (s.c.frameDone s.cfg (s.source.take k)).out
          ∧ c = { s.c.frameDone s.cfg (s.source.take k) with out := [] }) := by
  unfold State.gather
  by_cases hon : s.cfg.compEnabled = true
  · rw [if_pos hon]
    exact ⟨_, _, rfl, fun hoff => absurd (hon.symm.trans hoff) nofun, fun _ => ⟨rfl, rfl⟩⟩
  · rw [if_neg hon]
    exact ⟨_, _, rfl, fun _ => ⟨rfl, rfl⟩, fun h => absurd h hon⟩

/-- The I-frame with this information (R56, R143). -/
abbrev State.iFrame (s : State) (payload : List Octet) : List Octet :=
  s.cfg.addrCmd :: seqOctet s.l.txSeqNum false :: seqOctet s.l.rxSeqNum false :: payload

/-- R143: the I-frame is sent and stored. -/
theorem State.sendIFrame_eq {payload : List Octet} {c : Comp} {source : List Octet}
    (hg : s.gather (min s.source.length s.l.txMaxSize) = (payload, { s with c := c, source := source })) :
    s.sendIFrame now = { s with
      h := s.h.sendFrame (s.iFrame payload)
      l := { s.l with
        txSeqNum := s.l.txSeqNum + 1
        sentIFrames := Cells.insert s.l.sentIFrames s.l.txSeqNum.toNat (s.iFrame payload)
        inactStart := now }
      c := c, source := source } := by
  simp only [State.sendIFrame, hg, State.lSend_eq, State.setL, incMod128]

/-- R144: the refill with an I-frame. -/
theorem State.refillH_sends (hq : s.h.txBuffer = []) (hsends : s.piggybacks s.l.txSeqAck = true) :
    s.refillH now = s.sendIFrame now := by
  rw [State.refillH, if_pos (List.isEmpty_iff.mpr hq), if_pos (s.canSendIFrame_eq_piggybacks.trans hsends)]

/-- R133: an I-frame is sent in phase Connected only. -/
theorem State.handlesFrames_of_piggybacks {ack : SeqNum} (hsends : s.piggybacks ack = true) : s.handlesFrames := by
  simp only [State.piggybacks, Bool.and_eq_true, decide_eq_true_eq] at hsends
  obtain ⟨⟨hp, -⟩, -⟩ := hsends
  exact .inr hp

/-- Settles O38: the refill is the I-frame (`sendIFrame_eq`, `gather_eq`), then PopBit (`popH_waiting`). -/
theorem txbitSendsIFrame : Obligations.TxbitSendsIFrame := by
  intro s now hs hh hwc hq hsends k
  have hpop := State.lTxBit_handles (now := now) (State.handlesFrames_of_piggybacks hsends)
  obtain ⟨rs, hrs⟩ := execAll_frameDone hwc (s.source.take k)
  obtain ⟨payload, c, hgather, hoff, hon⟩ := State.gather_eq s k
  obtain ⟨hline, hinv, hones, hframe⟩ := Hdlc.sendFrame_queued hh (s.iFrame payload)
  have hne := Hdlc.sendFrame_txBuffer_ne_nil hh (s.iFrame payload)
  have hu := (State.refillH_sends (now := now) hq hsends).trans (State.sendIFrame_eq hgather)
  generalize s.refillH now = u at hpop hu
  generalize s.h.sendFrame (s.iFrame payload) = m at *
  have hones0 : m.txOnes = 0 := hones
  refine ⟨_, headBit u.h.txBuffer u.l.txBitPos, _, rs, payload, exec_lTxbit_open hs hpop, hrs, ?_, ?_, ?_, ?_, ?_, ?_, ?_⟩
  · rw [State.popH_eq, hu]
    exact hoff
  · rw [State.popH_eq, hu]
    exact hon
  · refine (State.popH_waiting (by rw [hu]; exact hne)).trans ?_
    rw [State.waitingH, hu, hline]
  · rw [State.popH_eq, hu]
    exact hinv
  · rw [State.popH_eq, hu]
    exact (Cells.lookup_insert _ _ _ _).trans (if_pos rfl)
  · rw [State.popH_eq, hu]
    exact fun q hq => (Cells.lookup_insert _ _ _ _).trans (if_neg hq.symm)
  · rw [State.popH_eq, hu]
    dsimp only
    rw [hframe, hones0]

end Sys2Proof.Machine
end

section
/-!
SUPPORT. The strings of the dictionary (43_v42bis_dictionary.md R172): a node's string is its parent's and its own byte.
-/

namespace Sys2Proof.Machine

variable {p : Params} {x : V42Base}

/-- R172: the bytes collected so far stand behind the string. -/
theorem V42Base.stringFrom_append (f i : Nat) (acc : List Octet) :
    x.stringFrom f i acc = x.stringFrom f i [] ++ acc := by
  induction f generalizing i acc with
  | zero => rfl
  | succ f ih =>
    unfold V42Base.stringFrom
    cases (x.nodeAt i).parent with
    | root | free => rfl
    | node q =>
      dsimp only
      rw [ih q (_ :: acc), ih q [_], List.append_assoc, List.singleton_append]

/-- R172: a string does not depend on the turns allowed, if they are as many as its chain has nodes. -/
theorem V42Base.stringFrom_of_le {f i n k m : Nat} (h : x.chainLen f i = some n) (hk : n ≤ k) (hm : n ≤ m)
    (acc : List Octet) : x.stringFrom k i acc = x.stringFrom m i acc := by
  induction f generalizing i n k m acc with
  | zero => cases h
  | succ f ih =>
    unfold V42Base.chainLen at h
    cases hpar : (x.nodeAt i).parent with
    | root =>
      rw [hpar] at h
      cases h
      obtain ⟨k, rfl⟩ := Nat.exists_eq_add_of_le' hk
      obtain ⟨m, rfl⟩ := Nat.exists_eq_add_of_le' hm
      rw [V42Base.stringFrom, V42Base.stringFrom, hpar]
    | node q =>
      rw [hpar] at h
      obtain ⟨l, hl, rfl⟩ := Option.map_eq_some_iff.mp h
      obtain ⟨k, rfl⟩ := Nat.exists_eq_add_of_le' ((Nat.le_add_left 1 l).trans hk)
      obtain ⟨m, rfl⟩ := Nat.exists_eq_add_of_le' ((Nat.le_add_left 1 l).trans hm)
      rw [V42Base.stringFrom, V42Base.stringFrom, hpar]
      exact ih hl (Nat.le_of_succ_le_succ hk) (Nat.le_of_succ_le_succ hm) _
    | free =>
      rw [hpar] at h
      cases h

/-- R4: the dynamic slots are at least as many as the longest string has bytes. -/
theorem Params.wf_room (hp : p.wf = true) : p.maxStringLength + Config.cwFirst ≤ p.maxCodeWords := by
  simp only [Params.wf, Bool.and_eq_true, decide_eq_true_eq, and_assoc] at hp
  obtain ⟨-, -, -, hroom, -⟩ := hp
  exact hroom

/-- R172: the string of a root is its byte. -/
theorem V42Base.stringOf_root (hp : p.wf = true) {i : Nat} (h : (x.nodeAt i).parent = .root) :
    x.stringOf p i = [(x.nodeAt i).character] := by
  obtain ⟨-, hsize, -⟩ := Params.wf_arena hp
  obtain ⟨k, hk⟩ := Nat.exists_eq_add_of_le' (Nat.one_le_of_lt hsize)
  rw [V42Base.stringOf, hk, V42Base.stringFrom, h]

/-- R171, R172: the string of the root for a byte. -/
theorem V42Base.Arena.stringOf_byte (hp : p.wf = true) (h : x.Arena p) (b : Octet) :
    x.stringOf p (Config.cwReserved + b.toNat) = [b] := by
  obtain ⟨hroot, hchar⟩ := h.root.1 b
  rw [V42Base.stringOf_root hp hroot, hchar]

/-- R172: the string of a node is its parent's and its own byte. -/
theorem V42Base.Arena.stringOf_child (hp : p.wf = true) (h : x.Arena p) {k q : Nat}
    (hk : (x.nodeAt k).parent = .node q) : x.stringOf p k = x.stringOf p q ++ [(x.nodeAt k).character] := by
  have hroom := Params.wf_room hp
  obtain ⟨n, hn⟩ := h.exists_chain (h.inUse_of_parent_ne_free (i := k) (by rw [hk]; nofun))
  obtain ⟨f, hf⟩ := Nat.exists_eq_add_of_le' (Params.wf_arena hp).1
  have hlen := V42Base.chainLen_le hn
  rw [hf, V42Base.chainLen, hk] at hn
  obtain ⟨m, hm, rfl⟩ := Option.map_eq_some_iff.mp hn
  obtain ⟨size, hsize⟩ := Nat.exists_eq_add_of_le' (show 1 ≤ p.maxCodeWords by omega)
  calc x.stringOf p k = x.stringFrom size q [(x.nodeAt k).character] := by
        rw [V42Base.stringOf, hsize, V42Base.stringFrom, hk]
    _ = x.stringFrom p.maxCodeWords q [(x.nodeAt k).character] :=
        V42Base.stringFrom_of_le hm (by omega) (by omega) _
    _ = x.stringOf p q ++ [(x.nodeAt k).character] := V42Base.stringFrom_append _ _ _

end Sys2Proof.Machine
end

section
/-!
SUPPORT. The recovery of a slot (43_v42bis_dictionary.md R175): the slots in the order of the scan, the leaf that it finds, and
why that is never the node just entered.
-/

namespace Sys2Proof.Machine

variable {p : Params} {x : V42Base}

/-! ### The slots in the order of the scan -/

/-- The `j`-th slot behind slot `n`, from the last slot on to the first dynamic one (R175). -/
def slotAfter (p : Params) (n j : Nat) : Nat :=
  Config.cwFirst + (n - Config.cwFirst + j) % (p.maxCodeWords - Config.cwFirst)

/-- R175: within one turn round the arena the scan wraps at most once. -/
theorem slotAfter_eq {n j : Nat} (hlo : Config.cwFirst ≤ n) (hhi : n < p.maxCodeWords)
    (hj : j ≤ p.maxCodeWords - Config.cwFirst) :
    slotAfter p n j = if n + j < p.maxCodeWords then n + j else n + j - (p.maxCodeWords - Config.cwFirst) := by
  unfold slotAfter
  split
  · rw [Nat.mod_eq_of_lt (by omega)]
    omega
  · rw [Nat.mod_eq_sub_mod (by omega), Nat.mod_eq_of_lt (by omega)]
    omega

theorem slotAfter_zero {n : Nat} (hlo : Config.cwFirst ≤ n) (hhi : n < p.maxCodeWords) : slotAfter p n 0 = n := by
  rw [slotAfter_eq hlo hhi (Nat.zero_le _), Nat.add_zero, if_pos hhi]

/-- R175: the scan goes from a slot to the next one. -/
theorem nextSlot_slotAfter (h : Config.cwFirst < p.maxCodeWords) (n j : Nat) :
    nextSlot p (slotAfter p n j) = slotAfter p n (j + 1) := by
  have hlt : (n - Config.cwFirst + j) % (p.maxCodeWords - Config.cwFirst) < p.maxCodeWords - Config.cwFirst :=
    Nat.mod_lt _ (by omega)
  unfold nextSlot slotAfter
  rw [← Nat.add_assoc, ← Nat.mod_add_mod (n - Config.cwFirst + j)]
  generalize (n - Config.cwFirst + j) % (p.maxCodeWords - Config.cwFirst) = r at hlt ⊢
  split
  · rw [show r + 1 = p.maxCodeWords - Config.cwFirst by omega, Nat.mod_self]
    rfl
  · rw [Nat.mod_eq_of_lt (show r + 1 < p.maxCodeWords - Config.cwFirst by omega), Nat.add_assoc]

/-- R175: the scan stops at the first leaf behind the slot where it starts. -/
theorem V42Base.scan_first (h : Config.cwFirst < p.maxCodeWords) (n : Nat) {fuel j t : Nat} (hjt : j < t)
    (hf : t ≤ j + fuel) (ht : x.isLeaf (slotAfter p n t) = true) :
    ∃ k, j < k ∧ k ≤ t ∧ x.scan p fuel (slotAfter p n j) = slotAfter p n k ∧ x.isLeaf (slotAfter p n k) = true
      ∧ ∀ l, j < l → l < k → x.isLeaf (slotAfter p n l) = false := by
  induction fuel generalizing j with
  | zero => omega
  | succ fuel ih =>
    unfold V42Base.scan
    rw [nextSlot_slotAfter h]
    split_ifs with hleaf
    · exact ⟨j + 1, Nat.lt_succ_self j, hjt, rfl, hleaf, fun l h1 h2 => by omega⟩
    · have hne : j + 1 ≠ t := fun he => hleaf (he ▸ ht)
      obtain ⟨k, hk, hkt, hscan, hkleaf, hfirst⟩ := ih (j := j + 1) (by omega) (by omega)
      refine ⟨k, by omega, hkt, hscan, hkleaf, fun l h1 h2 => ?_⟩
      by_cases hl : l = j + 1
      · rw [hl]
        simpa using hleaf
      · exact hfirst l (by omega) h2

/-! ### There is another leaf than the node just entered -/

/-- The node above a node; a root or a free node stands for itself. -/
def V42Base.above (x : V42Base) (i : Nat) : Nat :=
  match (x.nodeAt i).parent with
  | .node q => q
  | _ => i

theorem V42Base.above_of_parent {i q : Nat} (h : (x.nodeAt i).parent = .node q) : x.above i = q := by
  rw [V42Base.above, h]

/-- The chain of a node with a parent has that one and a root at least. -/
theorem V42Base.two_le_chainLen {f i q n : Nat} (hpar : (x.nodeAt i).parent = .node q) (h : x.chainLen f i = some n) :
    2 ≤ n := by
  cases f with
  | zero => cases h
  | succ f =>
    rw [V42Base.chainLen, hpar] at h
    obtain ⟨m, hm, rfl⟩ := Option.map_eq_some_iff.mp h
    cases f with
    | zero => cases hm
    | succ f =>
      unfold V42Base.chainLen at hm
      split at hm
      · cases hm
        omega
      · obtain ⟨l, -, rfl⟩ := Option.map_eq_some_iff.mp hm
        omega
      · cases hm

/-- A node that is no leaf has a child, whose chain is one longer. -/
theorem V42Base.Arena.exists_child (h : x.Arena p) {i : Nat} (hi : x.isLeaf i = false) :
    ∃ k, Config.cwFirst ≤ k ∧ k < p.maxCodeWords ∧ (x.nodeAt k).parent = .node i := by
  have hne : (x.nodeAt i).children ≠ [] := fun he => by
    rw [V42Base.isLeaf_iff.mpr he] at hi
    cases hi
  obtain ⟨⟨a, k⟩, m, hm⟩ := List.exists_cons_of_ne_nil hne
  have hlook : Cells.lookup (x.nodeAt i).children a = some k := by rw [hm, Cells.lookup, if_pos rfl]
  obtain ⟨hlo, hpar, -⟩ := (h.lookup_iff i a k).mp hlook
  exact ⟨k, hlo, (h.lt_of_parent_ne_free (i := k) (by rw [hpar]; nofun)).2, hpar⟩

/-- The chain of a child is one longer than its parent's. -/
theorem V42Base.Arena.chainLen_of_parent (h : x.Arena p) {k q l : Nat} (hk : (x.nodeAt k).parent = .node q)
    (hq : x.chainLen p.maxStringLength q = some l) : x.chainLen p.maxStringLength k = some (l + 1) := by
  obtain ⟨n, hn⟩ := h.exists_chain (h.inUse_of_parent_ne_free (i := k) (by rw [hk]; nofun))
  have hchild := V42Base.chainLen_child hk hq (Nat.le_max_right p.maxStringLength (l + 1))
  rw [V42Base.chainLen_of_le hn ((V42Base.chainLen_le hn).trans (Nat.le_max_left _ _))] at hchild
  rw [hn, Option.some.inj hchild]

/-- If `n` were the only dynamic leaf, every dynamic node would stand above it: going down from any node ends at `n`. -/
theorem V42Base.Arena.above_of_only_leaf (h : x.Arena p) {n : Nat}
    (honly : ∀ m, Config.cwFirst ≤ m → m < p.maxCodeWords → x.isLeaf m = true → m = n) (room : Nat) {m l : Nat}
    (hlo : Config.cwFirst ≤ m) (hhi : m < p.maxCodeWords) (hl : x.chainLen p.maxStringLength m = some l)
    (hroom : p.maxStringLength < l + room) :
    ∃ j, j + l ≤ p.maxStringLength ∧ x.above^[j] n = m := by
  induction room generalizing m l with
  | zero => exact absurd (V42Base.chainLen_le hl) (Nat.not_le_of_lt hroom)
  | succ room ih =>
    by_cases hmn : m = n
    · exact ⟨0, by rw [Nat.zero_add]; exact V42Base.chainLen_le hl, hmn.symm⟩
    · have hleaf : x.isLeaf m = false := by
        by_contra hc
        exact hmn (honly m hlo hhi (by simpa using hc))
      obtain ⟨k, hklo, hkhi, hpar⟩ := h.exists_child hleaf
      obtain ⟨j, hj, hup⟩ := ih hklo hkhi (h.chainLen_of_parent hpar hl) (by omega)
      exact ⟨j + 1, by omega, by rw [Function.iterate_succ_apply', hup, V42Base.above_of_parent hpar]⟩

/-- R175: a chain has too few nodes to hold all dynamic slots, so that there is a leaf beside any one node in use. -/
theorem V42Base.Arena.exists_leaf_ne (hp : p.wf = true) (h : x.Arena p) {n : Nat}
    (hn : (x.nodeAt n).parent ≠ .free) :
    ∃ m, Config.cwFirst ≤ m ∧ m < p.maxCodeWords ∧ m ≠ n ∧ x.isLeaf m = true := by
  by_contra hnone
  have honly : ∀ m, Config.cwFirst ≤ m → m < p.maxCodeWords → x.isLeaf m = true → m = n := fun m hlo hhi hleaf => by
    by_contra hne
    exact hnone ⟨m, hlo, hhi, hne, hleaf⟩
  have hroom := Params.wf_room hp
  obtain ⟨hlen, -, -⟩ := Params.wf_arena hp
  have hsub : Finset.Ico Config.cwFirst p.maxCodeWords
      ⊆ (Finset.range (p.maxStringLength - 1)).image fun j => x.above^[j] n := fun m hm => by
    obtain ⟨hlo, hhi⟩ := Finset.mem_Ico.mp hm
    have hused : (x.nodeAt m).parent ≠ .free := fun hfree => by
      have hmn := honly m hlo hhi (h.isFree_isLeaf (V42Base.isFree_iff.mpr hfree))
      exact hn (hmn ▸ hfree)
    cases hpar : (x.nodeAt m).parent with
    | free => exact absurd hpar hused
    | root => exact absurd hpar (h.parent_ne_root hlo)
    | node q =>
      obtain ⟨l, hl⟩ := h.exists_chain (h.inUse_of_parent_ne_free hused)
      have htwo := V42Base.two_le_chainLen hpar hl
      obtain ⟨j, hj, hup⟩ := h.above_of_only_leaf honly p.maxStringLength hlo hhi hl (by omega)
      exact Finset.mem_image.mpr ⟨j, Finset.mem_range.mpr (by omega), hup⟩
  have hcard := (Finset.card_le_card hsub).trans Finset.card_image_le
  rw [Nat.card_Ico, Finset.card_range] at hcard
  omega

/-! ### `recoverNode` -/

section Congr

variable {y : V42Base}

/-! The recovery of a slot reads the nodes and the slot just used only. -/

theorem V42Base.scan_congr (h : y.node = x.node) (fuel n : Nat) : y.scan p fuel n = x.scan p fuel n := by
  induction fuel generalizing n with
  | zero => rfl
  | succ fuel ih => rw [V42Base.scan, V42Base.scan, V42Base.isLeaf_congr h, ih]

theorem V42Base.setNode_node_congr (h : y.node = x.node) (n : Nat) (k : Node) :
    (y.setNode n k).node = (x.setNode n k).node := by
  simp only [V42Base.setNode, h]

theorem V42Base.detach_node_congr (h : y.node = x.node) (n : Nat) : (y.detach n).node = (x.detach n).node := by
  unfold V42Base.detach
  rw [V42Base.nodeAt_congr h]
  cases (x.nodeAt n).parent with
  | free => exact h
  | root => exact V42Base.setNode_node_congr h _ _
  | node q =>
    have hq := V42Base.setNode_node_congr h q
    dsimp only
    rw [V42Base.nodeAt_congr h, V42Base.nodeAt_congr (hq _)]
    exact V42Base.setNode_node_congr (hq _) _ _

theorem V42Base.recoverNode_congr (h : y.node = x.node) (hnext : y.nextCodeWord = x.nextCodeWord) :
    (y.recoverNode p).node = (x.recoverNode p).node
    ∧ (y.recoverNode p).nextCodeWord = (x.recoverNode p).nextCodeWord := by
  unfold V42Base.recoverNode
  rw [hnext, V42Base.scan_congr h]
  exact ⟨V42Base.detach_node_congr h _, rfl⟩

end Congr

/-- R175: the slot just used being no free one, `recoverNode` takes the first leaf behind it, another slot, and detaches it. -/
theorem V42Base.Arena.recoverNode_first (hp : p.wf = true) (h : x.Arena p) (hlo : Config.cwFirst ≤ x.nextCodeWord)
    (hhi : x.nextCodeWord < p.maxCodeWords) (hused : (x.nodeAt x.nextCodeWord).parent ≠ .free) :
    ∃ k, 1 ≤ k ∧ (x.recoverNode p).nextCodeWord = slotAfter p x.nextCodeWord k
      ∧ slotAfter p x.nextCodeWord k ≠ x.nextCodeWord ∧ x.isLeaf (slotAfter p x.nextCodeWord k) = true
      ∧ (∀ j, 1 ≤ j → j < k → x.isLeaf (slotAfter p x.nextCodeWord j) = false)
      ∧ (x.recoverNode p).node = (x.detach (slotAfter p x.nextCodeWord k)).node := by
  obtain ⟨m, hmlo, hmhi, hmn, hmleaf⟩ := h.exists_leaf_ne hp hused
  obtain ⟨t, ht0, htlast, ht⟩ :
      ∃ t, 0 < t ∧ t < p.maxCodeWords - Config.cwFirst ∧ slotAfter p x.nextCodeWord t = m := by
    by_cases hlt : x.nextCodeWord < m
    · refine ⟨m - x.nextCodeWord, by omega, by omega, ?_⟩
      rw [slotAfter_eq hlo hhi (by omega), if_pos (by omega)]
      omega
    · refine ⟨m + (p.maxCodeWords - Config.cwFirst) - x.nextCodeWord, by omega, by omega, ?_⟩
      rw [slotAfter_eq hlo hhi (by omega), if_neg (by omega)]
      omega
  obtain ⟨k, hk0, hkt, hscan, hleaf, hfirst⟩ :=
    V42Base.scan_first (hlo.trans_lt hhi) x.nextCodeWord (fuel := p.maxCodeWords) ht0 (by omega) (ht ▸ hmleaf)
  rw [slotAfter_zero hlo hhi] at hscan
  refine ⟨k, hk0, hscan, ?_, hleaf, hfirst, ?_⟩
  · rw [slotAfter_eq hlo hhi (by omega)]
    split <;> omega
  · rw [V42Base.recoverNode, hscan]

/-- R175: a leaf that is free stays as it is. -/
theorem V42Base.detach_of_isFree {n : Nat} (hn : x.isFree n = true) : x.detach n = x := by
  rw [V42Base.detach, V42Base.isFree_iff.mp hn]

/-- R175: `detach` of a dynamic leaf changes no other node's parent or character. -/
theorem V42Base.Arena.detach_frame (h : x.Arena p) {n : Nat} (hn : x.isLeaf n = true) (hlo : Config.cwFirst ≤ n) {k : Nat}
    (hk : k ≠ n) :
    ((x.detach n).nodeAt k).parent = (x.nodeAt k).parent ∧ ((x.detach n).nodeAt k).character = (x.nodeAt k).character := by
  cases hpar : (x.nodeAt n).parent with
  | free =>
    rw [V42Base.detach_of_isFree (V42Base.isFree_iff.mpr hpar)]
    exact ⟨rfl, rfl⟩
  | root => exact absurd hpar (h.parent_ne_root hlo)
  | node q =>
    have hqn : q ≠ n := fun he => h.parent_ne_of_isLeaf hn n (he ▸ hpar)
    exact ⟨by rw [V42Base.parent_detach h.nodes hpar hqn, if_neg hk], V42Base.character_detach h.nodes hpar hqn k⟩

end Sys2Proof.Machine
end

section
/-!
SUPPORT. What a character does to the dictionary and the match (43_v42bis_dictionary.md R174 to R176).
-/

namespace Sys2Proof.Machine

variable {p : Params} {x : V42Base} {i : Nat} {c : Octet}

/-! ### The end of a match -/

/-- R176, step 2: the string is new and not too long. -/
theorem V42Base.endMatch_new (hc : x.childAt i c = none) (hlen : x.matchLen + 1 ≤ p.maxStringLength) :
    x.endMatch p i c
      = V42Base.recoverNode p { x.addChild i c x.nextCodeWord with lastAdded := some x.nextCodeWord } :=
  if_pos ⟨hc, hlen⟩

/-- R176, step 2: the string is there or too long. -/
theorem V42Base.endMatch_old (h : x.childAt i c ≠ none ∨ p.maxStringLength < x.matchLen + 1) :
    x.endMatch p i c = { x with lastAdded := none } :=
  if_neg fun ⟨hc, hlen⟩ => h.elim (· hc) fun hlong => by omega

/-- R174: the dictionary with the new string, and that the new node is another one than the match's. -/
theorem V42Base.Sound.addChild_arena (h : x.Sound p) (hi : x.curCode = some i) (hc : x.childAt i c = none)
    (hlen : x.matchLen + 1 ≤ p.maxStringLength) :
    (x.addChild i c x.nextCodeWord).Arena p ∧ i ≠ x.nextCodeWord := by
  obtain ⟨ha, -, hlo, hhi, hfree⟩ := h.unmatched
  obtain ⟨huse, hchain⟩ := h.match_of_curCode hi
  refine ⟨(ha.addChild huse hfree hlo hhi hc hchain hlen).1, fun he => ?_⟩
  exact (V42Base.inUse_iff.mp huse).2 (he ▸ V42Base.isFree_iff.mp hfree)

/-- R174, R175: the slot of the next entry is the first leaf of the dictionary with the new string behind the slot of this one,
and it is detached. -/
theorem V42Base.Sound.endMatch_recovers (hp : p.wf = true) (h : x.Sound p) (hi : x.curCode = some i)
    (hc : x.childAt i c = none) (hlen : x.matchLen + 1 ≤ p.maxStringLength) :
    ∃ k, 1 ≤ k ∧ (x.endMatch p i c).nextCodeWord = slotAfter p x.nextCodeWord k
      ∧ slotAfter p x.nextCodeWord k ≠ x.nextCodeWord
      ∧ (x.addChild i c x.nextCodeWord).isLeaf (slotAfter p x.nextCodeWord k) = true
      ∧ (∀ j, 1 ≤ j → j < k → (x.addChild i c x.nextCodeWord).isLeaf (slotAfter p x.nextCodeWord j) = false)
      ∧ (x.endMatch p i c).node = ((x.addChild i c x.nextCodeWord).detach (slotAfter p x.nextCodeWord k)).node := by
  obtain ⟨-, -, hlo, hhi, -⟩ := h.unmatched
  obtain ⟨ha, hin⟩ := h.addChild_arena hi hc hlen
  have hused : ((x.addChild i c x.nextCodeWord).nodeAt x.nextCodeWord).parent ≠ .free := by
    rw [V42Base.parent_addChild h.nodes hin, if_pos rfl]
    nofun
  obtain ⟨hnode, hnext⟩ := V42Base.recoverNode_congr (p := p) (x := x.addChild i c x.nextCodeWord)
    (y := { x.addChild i c x.nextCodeWord with lastAdded := some x.nextCodeWord }) rfl rfl
  rw [V42Base.endMatch_new hc hlen, hnode, hnext]
  exact ha.recoverNode_first hp hlo hhi hused

/-- R174: the new string is entered in the next slot. -/
theorem V42Base.Sound.endMatch_entry (hp : p.wf = true) (h : x.Sound p) (hi : x.curCode = some i)
    (hc : x.childAt i c = none) (hlen : x.matchLen + 1 ≤ p.maxStringLength) :
    (x.endMatch p i c).lastAdded = some x.nextCodeWord
    ∧ ((x.endMatch p i c).nodeAt x.nextCodeWord).character = c
    ∧ ((x.endMatch p i c).nodeAt x.nextCodeWord).parent = .node i
    ∧ (x.endMatch p i c).isFree (x.endMatch p i c).nextCodeWord = true
    ∧ (x.endMatch p i c).nextCodeWord ≠ x.nextCodeWord
    ∧ ∀ k, k ≠ x.nextCodeWord → k ≠ (x.endMatch p i c).nextCodeWord →
        ((x.endMatch p i c).nodeAt k).parent = (x.nodeAt k).parent
        ∧ ((x.endMatch p i c).nodeAt k).character = (x.nodeAt k).character := by
  obtain ⟨ha, hin⟩ := h.addChild_arena hi hc hlen
  obtain ⟨-, -, -, -, hfree⟩ := h.endMatch hi c
  have hadded : (x.endMatch p i c).lastAdded = some x.nextCodeWord := by
    rw [V42Base.endMatch_new hc hlen, V42Base.recoverNode_eq]
  obtain ⟨k, -, hslot, hne, hleaf, -, hnode⟩ := h.endMatch_recovers hp hi hc hlen
  have hlo : Config.cwFirst ≤ slotAfter p x.nextCodeWord k := Nat.le_add_right _ _
  have hframe : ∀ m, m ≠ slotAfter p x.nextCodeWord k →
      ((x.endMatch p i c).nodeAt m).parent = (if m = x.nextCodeWord then .node i else (x.nodeAt m).parent)
      ∧ ((x.endMatch p i c).nodeAt m).character = (if m = x.nextCodeWord then c else (x.nodeAt m).character) :=
    fun m hm => by
      rw [V42Base.nodeAt_congr hnode, ← V42Base.parent_addChild h.nodes hin, ← V42Base.character_addChild h.nodes hin]
      exact ha.detach_frame hleaf hlo hm
  obtain ⟨hpar, hchar⟩ := hframe x.nextCodeWord hne.symm
  refine ⟨hadded, hchar.trans (if_pos rfl), hpar.trans (if_pos rfl), hfree, hslot ▸ hne, fun m hm hmnext => ?_⟩
  obtain ⟨hmpar, hmchar⟩ := hframe m (hslot ▸ hmnext)
  exact ⟨hmpar.trans (if_neg hm), hmchar.trans (if_neg hm)⟩

/-! ### One character -/

theorem V42Base.acceptChar_of_none (h : x.curCode = none) (c : Octet) : x.acceptChar p c = (x.restart c, none) := by
  simp only [V42Base.acceptChar, V42Base.extension, h]

/-- R176, step 1: the match is extended. -/
theorem V42Base.acceptChar_extends {ch : Nat} (h : x.extension c = some ch) :
    x.acceptChar p c = ({ x with curCode := some ch, matchLen := x.matchLen + 1 }, none) := by
  simp only [V42Base.acceptChar, h]

/-- R176, steps 2 and 3: the match ends and restarts. -/
theorem V42Base.acceptChar_ends (hi : x.curCode = some i) (h : x.extension c = none) :
    x.acceptChar p c =
      ((x.endMatch p i c).restart c, if x.modeTransition then none else some (i, x.matchLen)) := by
  simp only [V42Base.acceptChar, h, hi]

/-- R176, step 1: where a match is extended, and to what. -/
theorem V42Base.extension_eq_some_iff (hi : x.curCode = some i) {ch : Nat} :
    x.extension c = some ch ↔ x.modeTransition = false ∧ x.childAt i c = some ch ∧ x.lastAdded ≠ some ch := by
  unfold V42Base.extension
  rw [hi]
  dsimp only
  cases x.modeTransition with
  | true => simp
  | false =>
    cases hch : x.childAt i c with
    | none => simp
    | some k =>
      simp only [Bool.false_eq_true, if_false]
      split_ifs with hk
      · refine ⟨nofun, fun ⟨_, he, hne⟩ => absurd (Option.some.inj he ▸ hk) hne⟩
      · refine ⟨fun he => ⟨trivial, he, Option.some.inj he ▸ hk⟩, fun ⟨_, he, _⟩ => he⟩

/-- R176, step 1: where a match is not extended. -/
theorem V42Base.extension_eq_none (hi : x.curCode = some i)
    (h : x.modeTransition = true ∨ x.childAt i c = none ∨ x.childAt i c = x.lastAdded) : x.extension c = none := by
  refine Option.eq_none_iff_forall_ne_some.mpr fun ch he => ?_
  obtain ⟨hmode, hch, hne⟩ := (V42Base.extension_eq_some_iff hi).mp he
  rcases h with h | h | h
  · exact absurd (hmode.symm.trans h) nofun
  · exact absurd (hch.symm.trans h) nofun
  · exact hne (h.symm.trans hch)

/-- R175: the slot `k` of a recovered leaf, node by node: a free one stays as it is, one in use is detached from its parent. -/
theorem V42Base.Arena.detach_nodes {z y : V42Base} {k : Nat} (h : z.Arena p) (hleaf : z.isLeaf k = true)
    (hy : y.node = (z.detach k).node) :
    (z.isFree k = true → y.node = z.node)
    ∧ ∀ q, (z.nodeAt k).parent = .node q → ∀ m,
        y.nodeAt m =
          if m = k then { z.nodeAt m with parent := .free }
          else if m = q then
            { z.nodeAt m with children := Cells.erase (z.nodeAt m).children (z.nodeAt k).character.toNat }
          else z.nodeAt m := by
  refine ⟨fun hfree => by rw [hy, V42Base.detach_of_isFree hfree], fun q hq m => ?_⟩
  have hqk : q ≠ k := fun he => h.parent_ne_of_isLeaf hleaf k (he ▸ hq)
  rw [V42Base.nodeAt_congr hy, V42Base.nodeAt_detach h.nodes hq hqk]
  by_cases hmk : m = k
  · rw [if_pos hmk, if_pos hmk, hmk]
  · rw [if_neg hmk, if_neg hmk]
    by_cases hmq : m = q
    · rw [if_pos hmq, if_pos hmq, hmq]
    · rw [if_neg hmq, if_neg hmq]

/-- Settles O40: the strings by `stringOf_byte` and `stringOf_child`, the character by the three clauses of `acceptChar`, the
entry by `endMatch_entry` and the slot of the next one by `endMatch_recovers`. -/
theorem dictionaryMatches : Obligations.DictionaryMatches := by
  intro p x c hp hwf hinv y ended slot
  have h : x.Sound p := ⟨hwf, hinv⟩
  have hkeeps : y.codeWordSize = x.codeWordSize ∧ y.codeWordThreshold = x.codeWordThreshold
      ∧ y.escapeCode = x.escapeCode ∧ y.transparent = x.transparent := by
    rw [show y = (x.acceptChar p c).1 from rfl, V42Base.acceptChar_eq]
    exact ⟨rfl, rfl, rfl, rfl⟩
  refine ⟨h.arena.stringOf_byte hp, fun k q hk => h.arena.stringOf_child hp hk, ?_, fun hcur => ?_, fun i hi => ⟨?_, ?_⟩⟩
  · obtain ⟨hsize, hthr, hesc, htr⟩ := hkeeps
    rw [hsize, hthr, hesc, htr]
  · exact Prod.mk.inj (V42Base.acceptChar_of_none hcur c)
  · intro ch hmode hch hne
    exact Prod.mk.inj (V42Base.acceptChar_extends ((V42Base.extension_eq_some_iff hi).mpr ⟨hmode, hch, hne⟩))
  · intro hends
    obtain ⟨hy, hended⟩ := Prod.mk.inj (V42Base.acceptChar_ends (p := p) hi (V42Base.extension_eq_none hi hends))
    have hy : y = (x.endMatch p i c).restart c := hy
    rw [hy]
    refine ⟨rfl, hended, h.endMatch_entry hp hi, fun hc hlen => ?_, fun hold => ?_⟩
    · obtain ⟨k, hk, hslot, -, hleaf, hfirst, hnode⟩ := h.endMatch_recovers hp hi hc hlen
      exact ⟨k, hk, hslot, hleaf, hfirst, (h.addChild_arena hi hc hlen).1.detach_nodes hleaf hnode⟩
    · rw [V42Base.endMatch_old hold]
      exact ⟨rfl, rfl, rfl⟩

end Sys2Proof.Machine
end

section
/-!
SUPPORT. The shared dictionary as D's lags behind C's (43_v42bis_dictionary.md R176 to R178): what a byte does to either, and that
the string of the match, which C has yet to send, is all that D's dictionary lacks, and is in it.
-/

namespace Sys2Proof.Machine

variable {p : Params} {x y : V42Base} {s : List Octet} {b : Octet}

/-! ### A byte of the data, in C and in D -/

/-- What a byte of the data does to the shared state, in C.WRITE (R195) as in OutByte (R222). -/
def V42Base.accepts (p : Params) (x : V42Base) (b : Octet) : V42Base := ((x.rollEscape b).acceptChar p b).1

/-- R222: D puts a string out. -/
theorem Decomp.outBytes_accepts (d : Decomp) (octets : List Octet) :
    octets.foldl (Decomp.outByte p) d =
      { d with out := d.out ++ octets, base := octets.foldl (V42Base.accepts p) d.base } :=
  Decomp.outBytes_eq octets d

theorem V42Base.Sound.accepts (hp : p.wf = true) (h : x.Sound p) (b : Octet) : (x.accepts p b).Sound p :=
  (h.rollEscape b).acceptChar hp b

/-! ### The width is another matter -/

/-- The shared state at another width (R193, R220). -/
def V42Base.setWidth (x : V42Base) (size thr : Nat) : V42Base :=
  { x with codeWordSize := size, codeWordThreshold := thr }

theorem V42Base.endMatch_setWidth (size thr i : Nat) (b : Octet) :
    (x.setWidth size thr).endMatch p i b = (x.endMatch p i b).setWidth size thr := by
  have hchild : (x.setWidth size thr).childAt i b = x.childAt i b := rfl
  by_cases hnew : x.childAt i b = none ∧ x.matchLen + 1 ≤ p.maxStringLength
  · obtain ⟨hc, hlen⟩ := hnew
    obtain ⟨hnode, hnext⟩ := V42Base.recoverNode_congr (p := p)
      (x := { x.addChild i b x.nextCodeWord with lastAdded := some x.nextCodeWord })
      (y := { (x.setWidth size thr).addChild i b x.nextCodeWord with lastAdded := some x.nextCodeWord }) rfl rfl
    rw [V42Base.endMatch_new hc hlen, V42Base.endMatch_new (hchild.trans hc) hlen, V42Base.recoverNode_eq,
      V42Base.recoverNode_eq p { x.addChild i b x.nextCodeWord with lastAdded := _ }]
    exact congrArg₂ (fun node next => { (x.setWidth size thr) with
      node := node, nextCodeWord := next, lastAdded := some x.nextCodeWord }) hnode hnext
  · have hold := (not_and_or.mp hnew).imp_right Nat.lt_of_not_le
    rw [V42Base.endMatch_old hold, V42Base.endMatch_old (by exact hold)]
    rfl

/-- R176: a character does not read the width. -/
theorem V42Base.acceptChar_setWidth (size thr : Nat) (b : Octet) :
    ((x.setWidth size thr).acceptChar p b).1 = (x.acceptChar p b).1.setWidth size thr := by
  have hext : (x.setWidth size thr).extension b = x.extension b := rfl
  have hcur : (x.setWidth size thr).curCode = x.curCode := rfl
  cases he : x.extension b with
  | some ch =>
    rw [V42Base.acceptChar_extends he, V42Base.acceptChar_extends (hext.trans he)]
    rfl
  | none =>
    cases hi : x.curCode with
    | none =>
      rw [V42Base.acceptChar_of_none hi, V42Base.acceptChar_of_none (hcur.trans hi)]
      rfl
    | some i =>
      rw [V42Base.acceptChar_ends hi he, V42Base.acceptChar_ends (hcur.trans hi) (hext.trans he)]
      dsimp only
      rw [V42Base.endMatch_setWidth]
      rfl

theorem V42Base.accepts_setWidth (size thr : Nat) (b : Octet) :
    (x.setWidth size thr).accepts p b = (x.accepts p b).setWidth size thr := by
  have hroll : (x.setWidth size thr).rollEscape b = (x.rollEscape b).setWidth size thr := by
    by_cases hb : b = x.escapeCode
    · rw [V42Base.rollEscape, V42Base.rollEscape, if_pos hb, if_pos (by exact hb)]
      rfl
    · rw [V42Base.rollEscape, V42Base.rollEscape, if_neg hb, if_neg (by exact hb)]
  rw [V42Base.accepts, hroll, V42Base.acceptChar_setWidth]
  rfl

theorem V42Base.foldl_accepts_setWidth (size thr : Nat) (s : List Octet) :
    s.foldl (V42Base.accepts p) (x.setWidth size thr) = (s.foldl (V42Base.accepts p) x).setWidth size thr := by
  induction s generalizing x with
  | nil => rfl
  | cons b s ih => rw [List.foldl_cons, List.foldl_cons, V42Base.accepts_setWidth, ih]

/-- R176: a byte leaves the width and the mode. -/
theorem V42Base.accepts_keeps (x : V42Base) (b : Octet) :
    (x.accepts p b).codeWordSize = x.codeWordSize ∧ (x.accepts p b).codeWordThreshold = x.codeWordThreshold
    ∧ (x.accepts p b).transparent = x.transparent := by
  rw [V42Base.accepts, V42Base.acceptChar_eq, V42Base.rollEscape_eq]
  exact ⟨rfl, rfl, rfl⟩

theorem V42Base.foldl_accepts_keeps (s : List Octet) (x : V42Base) :
    (s.foldl (V42Base.accepts p) x).codeWordSize = x.codeWordSize
    ∧ (s.foldl (V42Base.accepts p) x).codeWordThreshold = x.codeWordThreshold
    ∧ (s.foldl (V42Base.accepts p) x).transparent = x.transparent := by
  induction s generalizing x with
  | nil => exact ⟨rfl, rfl, rfl⟩
  | cons b s ih =>
    obtain ⟨hsize, hthr, htr⟩ := V42Base.accepts_keeps (p := p) x b
    obtain ⟨hsize', hthr', htr'⟩ := ih (x.accepts p b)
    exact ⟨hsize'.trans hsize, hthr'.trans hthr, htr'.trans htr⟩

/-! ### The lag -/

/-- The code of the match that is still to be sent; in a mode transition it was sent before (R176, R198). -/
def V42Base.pendingCode (y : V42Base) : Option Nat := if y.modeTransition then none else y.curCode

/-- D's dictionary `x` lags behind C's `y` by the octets `s` (R178): they bring it to `y`, they are the string that D has for
the code that C is yet to send, and `x` has every node of `y` but the newest, which C does not match. -/
structure V42Base.Lags (p : Params) (x y : V42Base) (s : List Octet) : Prop where
  sound   : x.Sound p
  caught  : s.foldl (V42Base.accepts p) x = y
  idle    : y.pendingCode = none → s = []
  pending : ∀ i, y.pendingCode = some i → x.inUse i = true ∧ x.stringOf p i = s
  older   : ∀ k, y.lastAdded ≠ some k → (y.nodeAt k).parent ≠ .free →
    (x.nodeAt k).parent = (y.nodeAt k).parent ∧ (x.nodeAt k).character = (y.nodeAt k).character

/-- With nothing to be sent there is no lag. -/
theorem V42Base.Sound.lags_nil (h : y.Sound p) (hnone : y.pendingCode = none) : y.Lags p y [] :=
  ⟨h, rfl, fun _ => rfl, fun _ hi => absurd (hnone.symm.trans hi) nofun, fun _ _ _ => ⟨rfl, rfl⟩⟩

/-- R172: a string is one of the nodes only. -/
theorem V42Base.stringOf_congr (h : y.node = x.node) (i : Nat) : y.stringOf p i = x.stringOf p i := by
  have hfrom : ∀ f i acc, y.stringFrom f i acc = x.stringFrom f i acc := fun f => by
    induction f with
    | zero => exact fun _ _ => rfl
    | succ f ih =>
      intro i acc
      rw [V42Base.stringFrom, V42Base.stringFrom, V42Base.nodeAt_congr h]
      simp only [ih]
  exact hfrom _ _ _

/-- R193, R220: the lag is the same at any width. -/
theorem V42Base.Lags.setWidth (h : x.Lags p y s) {size thr : Nat} (hsize : 9 ≤ size) (hthr : thr = 2 ^ size)
    (hle : thr ≤ p.maxCodeWords) : (x.setWidth size thr).Lags p (y.setWidth size thr) s :=
  ⟨h.sound.setWidth hsize hthr hle, by rw [V42Base.foldl_accepts_setWidth, h.caught], h.idle,
    fun i hi =>
      let ⟨huse, hstring⟩ := h.pending i hi
      ⟨huse, (V42Base.stringOf_congr (x := x) (y := x.setWidth size thr) rfl i).trans hstring⟩,
    h.older⟩

/-- R176, step 2: what ends a match changes no node but the newest and those that it frees. -/
theorem V42Base.Sound.endMatch_older (hp : p.wf = true) (h : y.Sound p) {i : Nat} (hi : y.curCode = some i) (b : Octet)
    {k : Nat} (hk : (y.endMatch p i b).lastAdded ≠ some k) (hused : ((y.endMatch p i b).nodeAt k).parent ≠ .free) :
    (y.nodeAt k).parent = ((y.endMatch p i b).nodeAt k).parent
    ∧ (y.nodeAt k).character = ((y.endMatch p i b).nodeAt k).character := by
  by_cases hnew : y.childAt i b = none ∧ y.matchLen + 1 ≤ p.maxStringLength
  · obtain ⟨hadded, -, -, hfree, -, hframe⟩ := h.endMatch_entry hp hi hnew.1 hnew.2
    obtain ⟨hpar, hchar⟩ := hframe k (fun he => hk (he ▸ hadded)) fun he => hused (V42Base.isFree_iff.mp (he ▸ hfree))
    exact ⟨hpar.symm, hchar.symm⟩
  · rw [V42Base.endMatch_old ((not_and_or.mp hnew).imp_right Nat.lt_of_not_le)]
    exact ⟨rfl, rfl⟩

/-- R176: the escape code has no part in a match. -/
theorem V42Base.extension_rollEscape (y : V42Base) (b : Octet) : (y.rollEscape b).extension b = y.extension b := by
  rw [V42Base.rollEscape_eq]
  rfl

/-- R176, step 3: a byte that does not extend a match is the whole lag behind what was before it. -/
theorem V42Base.Sound.lags_restart (hp : p.wf = true) (h : y.Sound p) (hext : y.extension b = none) :
    y.Lags p (y.accepts p b) [b] := by
  have hroll := h.rollEscape b
  have hext' := (y.extension_rollEscape b).trans hext
  have hnodes : (y.rollEscape b).node = y.node := by rw [V42Base.rollEscape_eq]
  obtain ⟨hroot, -⟩ := h.arena.root.1 b
  have hpend : ∀ z : V42Base, (z.restart b).pendingCode = some (Config.cwReserved + b.toNat) := fun _ => rfl
  have hstring : y.inUse (Config.cwReserved + b.toNat) = true ∧ y.stringOf p (Config.cwReserved + b.toNat) = [b] :=
    ⟨h.arena.inUse_of_parent_ne_free (by rw [hroot]; nofun), h.arena.stringOf_byte hp b⟩
  have hlag : ∀ z : V42Base, y.accepts p b = z.restart b →
      (∀ k, z.lastAdded ≠ some k → (z.nodeAt k).parent ≠ .free →
        (y.nodeAt k).parent = (z.nodeAt k).parent ∧ (y.nodeAt k).character = (z.nodeAt k).character) →
      y.Lags p (y.accepts p b) [b] := fun z hz holder => by
    rw [hz]
    refine ⟨h, hz, fun hnone => absurd hnone nofun, fun i hi => ?_, holder⟩
    rw [← Option.some.inj ((hpend z).symm.trans hi)]
    exact hstring
  cases hi : (y.rollEscape b).curCode with
  | none =>
    refine hlag (y.rollEscape b) (congrArg Prod.fst (V42Base.acceptChar_of_none hi b)) fun k _ _ => ?_
    rw [V42Base.nodeAt_congr hnodes]
    exact ⟨rfl, rfl⟩
  | some i =>
    refine hlag _ (congrArg Prod.fst (V42Base.acceptChar_ends hi hext')) fun k hk hused => ?_
    rw [← V42Base.nodeAt_congr hnodes]
    exact hroll.endMatch_older hp hi b hk hused

/-- R176, step 1: a byte that extends the match is lacking, too; the longer string is in D's dictionary, since the newest node
is not matched. -/
theorem V42Base.Lags.extend (hp : p.wf = true) (h : x.Lags p y s) (hy : y.Sound p) {ch : Nat}
    (hext : y.extension b = some ch) : x.Lags p (y.accepts p b) (s ++ [b]) := by
  have hacc : y.accepts p b = { y.rollEscape b with curCode := some ch, matchLen := (y.rollEscape b).matchLen + 1 } :=
    congrArg Prod.fst (V42Base.acceptChar_extends ((y.extension_rollEscape b).trans hext))
  have hcaught : (s ++ [b]).foldl (V42Base.accepts p) x = y.accepts p b := by
    rw [List.foldl_append, h.caught]
    rfl
  cases hi : y.curCode with
  | none =>
    rw [V42Base.extension, hi] at hext
    cases hext
  | some i =>
    obtain ⟨hmode, hch, hne⟩ := (V42Base.extension_eq_some_iff hi).mp hext
    obtain ⟨-, hpar, hchar⟩ := (hy.arena.lookup_iff i _ ch).mp hch
    have hpend : y.pendingCode = some i := by rw [V42Base.pendingCode, hmode, if_neg Bool.false_ne_true, hi]
    obtain ⟨hxpar, hxchar⟩ := h.older ch hne (by rw [hpar]; nofun)
    have hx : x.inUse ch = true ∧ x.stringOf p ch = s ++ [b] := by
      refine ⟨h.sound.arena.inUse_of_parent_ne_free (by rw [hxpar, hpar]; nofun), ?_⟩
      rw [h.sound.arena.stringOf_child hp (hxpar.trans hpar), (h.pending i hpend).2, hxchar, BitVec.eq_of_toNat_eq hchar]
    have hpend' : (y.accepts p b).pendingCode = some ch := by
      rw [hacc, V42Base.pendingCode, V42Base.rollEscape_eq]
      show (if y.modeTransition then none else some ch) = some ch
      rw [hmode, if_neg Bool.false_ne_true]
    have hnodes : (y.accepts p b).node = y.node := by rw [hacc, V42Base.rollEscape_eq]
    have hadded : (y.accepts p b).lastAdded = y.lastAdded := by rw [hacc, V42Base.rollEscape_eq]
    refine ⟨h.sound, hcaught, fun hnone => absurd (hpend'.symm.trans hnone) nofun, fun k hk => ?_, fun k hk hused => ?_⟩
    · rw [← Option.some.inj (hpend'.symm.trans hk)]
      exact hx
    · rw [V42Base.nodeAt_congr hnodes] at hused ⊢
      exact h.older k (hadded ▸ hk) hused

end Sys2Proof.Machine
end

section
/-!
SUPPORT. D read bit by bit (45_decompressor.md R217): in compressed mode an octet of the stream is its bits, as long as no
codeword ends the block, so that D can be followed to the end of a codeword within an octet.
-/

namespace Sys2Proof.Machine

variable {p : Params} {d m : Decomp}

/-! ### The low bits of a number (R34) -/

theorem lowBits_succ (n w : Nat) : lowBits (n + 1) w = w.testBit 0 :: lowBits n (w / 2) := by
  rw [lowBits, List.range_succ_eq_map, List.map_cons, List.map_map]
  exact congrArg _ (List.map_congr_left fun k _ => Nat.testBit_succ w k)

theorem lowBits_add (m n w : Nat) : lowBits (m + n) w = lowBits m (w % 2 ^ m) ++ lowBits n (w / 2 ^ m) := by
  rw [lowBits, List.range_add, List.map_append, List.map_map]
  congr 1
  · refine List.map_congr_left fun k hk => ?_
    rw [Nat.testBit_mod_two_pow, decide_eq_true (List.mem_range.mp hk), Bool.true_and]
  · refine List.map_congr_left fun k _ => ?_
    rw [Nat.testBit_div_two_pow, Nat.add_comm]
    rfl

theorem lowBits_zero (n : Nat) : lowBits n 0 = List.replicate n false := by
  simp [lowBits, List.eq_replicate_iff]

/-- R34: the bits of an octet are those of its value. -/
theorem octetBits_eq_lowBits (b : Octet) : octetBits b = lowBits 8 b.toNat := by
  have h := lowBits_eight_add 0 b.toNat
  rw [BitVec.ofNat_toNat, BitVec.setWidth_eq] at h
  exact (List.append_nil _).symm.trans h.symm

theorem testBit_zero_add_div_two (w : Nat) : (w.testBit 0).toNat + 2 * (w / 2) = w := by
  rw [Nat.testBit_zero]
  rcases Nat.mod_two_eq_zero_or_one w with h | h <;> simp [h] <;> omega

/-! ### One bit, and several -/

/-- D behind a codeword `w` whose last bit has come, if it is one within a block: a STEPUP or a data codeword, and no fault. -/
def Decomp.complete (p : Params) (d : Decomp) (w : Nat) : Option Decomp :=
  let m := Decomp.codeword p { d with inBuf := 0, inCnt := 0 } w
  if Config.cwStepup ≤ w ∧ m.fault = none ∧ m.base.transparent = false then some m else none

/-- D behind one more bit of a block in compressed mode. -/
def Decomp.takeBit (p : Params) (d : Decomp) (b : Bool) : Option Decomp :=
  let buf := d.inBuf + b.toNat * 2 ^ d.inCnt
  if d.inCnt + 1 < d.base.codeWordSize then some { d with inBuf := buf, inCnt := d.inCnt + 1 } else d.complete p buf

/-- D behind several bits of a block in compressed mode. -/
def Decomp.takeBits (p : Params) (d : Decomp) (bits : List Bool) : Option Decomp := bits.foldlM (Decomp.takeBit p) d

theorem Decomp.takeBits_append (as bs : List Bool) :
    d.takeBits p (as ++ bs) = (d.takeBits p as).bind fun m => m.takeBits p bs := List.foldlM_append

/-- What `n` bits add to a buffer. -/
theorem buf_add_bit (buf n w : Nat) : buf + (w.testBit 0).toNat * 2 ^ n + w / 2 * 2 ^ (n + 1) = buf + w * 2 ^ n := by
  calc buf + (w.testBit 0).toNat * 2 ^ n + w / 2 * 2 ^ (n + 1)
      = buf + ((w.testBit 0).toNat + 2 * (w / 2)) * 2 ^ n := by ring
    _ = buf + w * 2 ^ n := by rw [testBit_zero_add_div_two]

/-- `n` bits above `i` bits are `i + n` bits. -/
theorem buf_lt {buf i n w : Nat} (hbuf : buf < 2 ^ i) (hw : w < 2 ^ n) : buf + w * 2 ^ i < 2 ^ (i + n) := by
  calc buf + w * 2 ^ i < 2 ^ i + w * 2 ^ i := Nat.add_lt_add_right hbuf _
    _ = (w + 1) * 2 ^ i := by ring
    _ ≤ 2 ^ n * 2 ^ i := Nat.mul_le_mul_right _ hw
    _ = 2 ^ (i + n) := by rw [← pow_add, Nat.add_comm]

/-- Bits above `i` bits, the first `k` of them and the others. -/
theorem buf_split (buf i k w : Nat) : buf + w * 2 ^ i = buf + w % 2 ^ k * 2 ^ i + w / 2 ^ k * 2 ^ (i + k) := by
  calc buf + w * 2 ^ i = buf + (w % 2 ^ k + 2 ^ k * (w / 2 ^ k)) * 2 ^ i := by rw [Nat.mod_add_div]
    _ = buf + w % 2 ^ k * 2 ^ i + w / 2 ^ k * 2 ^ (i + k) := by
      generalize w % 2 ^ k = lo
      generalize w / 2 ^ k = hi
      ring

/-- R217: bits that do not complete a codeword are held. -/
theorem Decomp.takeBits_held (n : Nat) {w : Nat} (hw : w < 2 ^ n) (hn : d.inCnt + n < d.base.codeWordSize) :
    d.takeBits p (lowBits n w) = some { d with inBuf := d.inBuf + w * 2 ^ d.inCnt, inCnt := d.inCnt + n } := by
  induction n generalizing d w with
  | zero =>
    rw [show w = 0 by simpa using hw, Nat.zero_mul]
    rfl
  | succ n ih =>
    have hbit : d.takeBit p (w.testBit 0)
        = some { d with inBuf := d.inBuf + (w.testBit 0).toNat * 2 ^ d.inCnt, inCnt := d.inCnt + 1 } :=
      if_pos (by omega)
    rw [lowBits_succ, Decomp.takeBits, List.foldlM_cons, hbit]
    refine (ih (by omega) (show d.inCnt + 1 + n < d.base.codeWordSize by omega)).trans ?_
    dsimp only
    rw [buf_add_bit, Nat.add_assoc, Nat.add_comm 1 n]

/-- R217: the bits that complete a codeword. -/
theorem Decomp.takeBits_complete (n : Nat) {w : Nat} (hw : w < 2 ^ (n + 1))
    (hn : d.inCnt + (n + 1) = d.base.codeWordSize) :
    d.takeBits p (lowBits (n + 1) w) = d.complete p (d.inBuf + w * 2 ^ d.inCnt) := by
  induction n generalizing d w with
  | zero =>
    have hbit : d.takeBit p (w.testBit 0) = d.complete p (d.inBuf + (w.testBit 0).toNat * 2 ^ d.inCnt) :=
      if_neg (by omega)
    have h0 : (w.testBit 0).toNat = w := by
      have := testBit_zero_add_div_two w
      omega
    rw [lowBits_succ, Decomp.takeBits, List.foldlM_cons, hbit, h0]
    exact bind_pure _
  | succ n ih =>
    have hbit : d.takeBit p (w.testBit 0)
        = some { d with inBuf := d.inBuf + (w.testBit 0).toNat * 2 ^ d.inCnt, inCnt := d.inCnt + 1 } :=
      if_pos (by omega)
    rw [lowBits_succ, Decomp.takeBits, List.foldlM_cons, hbit]
    refine (ih (by omega) (show d.inCnt + 1 + (n + 1) = d.base.codeWordSize by omega)).trans ?_
    dsimp only
    rw [buf_add_bit]
    rfl

/-! ### An octet is its bits -/

/-- D takes its stream in compressed mode. -/
def Decomp.InBlock (d : Decomp) : Prop := d.fault = none ∧ d.base.transparent = false

theorem Decomp.complete_eq_some {w : Nat} (h : d.complete p w = some m) :
    2 ≤ w ∧ m = Decomp.codeword p { d with inBuf := 0, inCnt := 0 } w ∧ m.InBlock := by
  unfold Decomp.complete at h
  dsimp only at h
  split_ifs at h with hc
  obtain ⟨hw, hin⟩ := hc
  cases h
  exact ⟨hw, rfl, hin⟩

/-- R220, R221: a STEPUP or a data codeword leaves the bits behind it. -/
theorem Decomp.codeword_held {w : Nat} (hw : 2 ≤ w) (buf cnt : Nat) :
    Decomp.codeword p { d with inBuf := buf, inCnt := cnt } w = { d.codeword p w with inBuf := buf, inCnt := cnt } := by
  rcases Nat.eq_or_lt_of_le hw with rfl | hw
  · show Decomp.doStepup p _ = { d.doStepup p with inBuf := buf, inCnt := cnt }
    unfold Decomp.doStepup
    split_ifs <;> rfl
  · rw [Decomp.codeword_data hw, Decomp.codeword_data hw]
    unfold Decomp.dataCodeword
    by_cases hbad : p.maxCodeWords ≤ w ∨ d.base.isFree w = true
    · rw [if_pos hbad, if_pos (by exact hbad)]
      rfl
    · rw [if_neg hbad, if_neg (by exact hbad), Decomp.outBytes_accepts, Decomp.outBytes_accepts]

/-- R217: a codeword of a block with other bits behind it leaves those, and they are as far from a codeword as before. -/
theorem Decomp.complete_held {w : Nat} (h : d.complete p w = some m) (buf cnt : Nat) :
    Decomp.codeword p { d with inBuf := buf, inCnt := cnt } w = { m with inBuf := buf, inCnt := cnt }
    ∧ (cnt < d.base.codeWordSize → cnt < m.base.codeWordSize) ∧ m.inBuf = 0 ∧ m.inCnt = 0 := by
  obtain ⟨hw, rfl, -⟩ := Decomp.complete_eq_some h
  have hheld : Decomp.codeword p { d with inBuf := buf, inCnt := cnt } w
      = { Decomp.codeword p { d with inBuf := 0, inCnt := 0 } w with inBuf := buf, inCnt := cnt } := by
    rw [Decomp.codeword_held hw buf, Decomp.codeword_held hw 0]
  refine ⟨hheld, fun hcnt => ?_, ?_⟩
  · have hlt := Decomp.codeword_inCnt_lt (p := p) (d := { d with inBuf := buf, inCnt := cnt }) hcnt w
    rw [hheld] at hlt
    exact hlt
  · rw [Decomp.codeword_held hw 0]
    exact ⟨rfl, rfl⟩

/-- R217: an octet of a block is its bits. -/
theorem Decomp.compressedOctet_of_takeBits (h : d.Sound p) (hin : d.InBlock) {b : Octet}
    (hm : d.takeBits p (octetBits b) = some m) : d.compressedOctet p b = m ∧ m.InBlock := by
  obtain ⟨hf, htr⟩ := hin
  obtain ⟨hsize, -, -⟩ := h.base.width
  have hcnt := h.inCnt
  rw [octetBits_eq_lowBits] at hm
  by_cases hlt : d.inCnt + 8 < d.base.codeWordSize
  · rw [Decomp.takeBits_held 8 b.isLt hlt] at hm
    rw [Decomp.compressedOctet_of_lt h.inBuf hlt, Option.some.inj hm]
    exact ⟨rfl, Option.some.inj hm ▸ ⟨hf, htr⟩⟩
  · obtain ⟨k, hk⟩ : ∃ k, d.inCnt + (k + 1) = d.base.codeWordSize := ⟨d.base.codeWordSize - d.inCnt - 1, by omega⟩
    obtain ⟨n, hn⟩ : ∃ n, k + 1 + n = 8 := ⟨7 - k, by omega⟩
    have hlow : b.toNat % 2 ^ (k + 1) < 2 ^ (k + 1) := Nat.mod_lt _ (Nat.two_pow_pos _)
    have hhigh : b.toNat / 2 ^ (k + 1) < 2 ^ n := by
      rw [Nat.div_lt_iff_lt_mul (Nat.two_pow_pos _), ← pow_add, Nat.add_comm n, hn]
      exact b.isLt
    have hbits : lowBits 8 b.toNat = lowBits (k + 1) (b.toNat % 2 ^ (k + 1)) ++ lowBits n (b.toNat / 2 ^ (k + 1)) := by
      rw [← lowBits_add, hn]
    rw [hbits, Decomp.takeBits_append, Decomp.takeBits_complete k hlow hk] at hm
    obtain ⟨v, hv, hm⟩ := Option.bind_eq_some_iff.mp hm
    obtain ⟨-, -, hvin⟩ := Decomp.complete_eq_some hv
    obtain ⟨hword, hroom, hvbuf, hvcnt⟩ := Decomp.complete_held hv (b.toNat / 2 ^ (k + 1)) n
    rw [Decomp.takeBits_held n hhigh (by omega), hvcnt, hvbuf, Nat.zero_add, Nat.zero_add, pow_zero, Nat.mul_one] at hm
    have hcode := buf_lt h.inBuf hlow
    rw [hk] at hcode
    rw [← Option.some.inj hm, Decomp.compressedOctet_of_le h.inBuf hcnt hsize htr hf (by omega),
      buf_split d.inBuf d.inCnt (k + 1), hk, Nat.add_mul_mod_self_right, Nat.add_mul_div_right _ _ (Nat.two_pow_pos _),
      Nat.mod_eq_of_lt hcode, Nat.div_eq_of_lt hcode, Nat.zero_add, show d.inCnt + 8 - d.base.codeWordSize = n by omega]
    exact ⟨hword, hvin⟩

/-- R211, R217: D.WRITE of several octets of a block is taking their bits. -/
theorem Decomp.writes_of_takeBits (hp : p.wf = true) (h : d.Sound p) (hin : d.InBlock) {os : List Octet}
    (hm : d.takeBits p (octetsBits os) = some m) : d.writes p os = m ∧ m.InBlock := by
  induction os generalizing d with
  | nil =>
    cases hm
    exact ⟨rfl, hin⟩
  | cons o os ih =>
    rw [octetsBits_cons, Decomp.takeBits_append] at hm
    obtain ⟨k, hk, hm⟩ := Option.bind_eq_some_iff.mp hm
    obtain ⟨hk, hkin⟩ := Decomp.compressedOctet_of_takeBits h hin hk
    rw [← Decomp.write_compressed hin.2 hin.1] at hk
    rw [Decomp.writes_cons, hk]
    exact ih (hk ▸ h.write hp o) hkin hm

end Sys2Proof.Machine
end

section
/-!
SUPPORT. What C puts out, read by D (44_compressor.md R191 to R198; 45_decompressor.md R217 to R221): D behind C's octets and the
bits that C holds back has the same width as C, and lags by the match that is still to be sent.
-/

namespace Sys2Proof.Machine

variable {p : Params} {c : Comp} {v : Decomp} {x y : V42Base} {out s : List Octet} {k : Nat}

/-! ### D between two codewords -/

/-- D with this dictionary and these octets put out, no bits held, no pair open and no fault. -/
def Decomp.plain (x : V42Base) (out : List Octet) : Decomp where
  base    := x
  escaped := false
  inBuf   := 0
  inCnt   := 0
  fault   := none
  out     := out

/-- R217: a codeword's bits are the codeword, if it is one within a block. -/
theorem Decomp.plain_takeBits {w : Nat} (hsize : 9 ≤ x.codeWordSize) (hw : w < 2 ^ x.codeWordSize) :
    (Decomp.plain x out).takeBits p (lowBits x.codeWordSize w) = (Decomp.plain x out).complete p w := by
  obtain ⟨n, hn⟩ := Nat.exists_eq_add_of_le' ((by decide : 1 ≤ 9).trans hsize)
  rw [hn] at hw ⊢
  have h := Decomp.takeBits_complete (p := p) (d := Decomp.plain x out) n hw ((Nat.zero_add _).trans hn.symm)
  rwa [show (Decomp.plain x out).inBuf + w * 2 ^ (Decomp.plain x out).inCnt = w from by simp [Decomp.plain]] at h

/-- R220: a STEPUP within the dictionary. -/
theorem Decomp.plain_stepup (htr : x.transparent = false) (hthr : 2 * x.codeWordThreshold ≤ p.maxCodeWords) :
    (Decomp.plain x out).complete p Config.cwStepup
      = some (Decomp.plain (x.setWidth (x.codeWordSize + 1) (2 * x.codeWordThreshold)) out) := by
  have hword : (Decomp.plain x out).codeword p Config.cwStepup
      = Decomp.plain (x.setWidth (x.codeWordSize + 1) (2 * x.codeWordThreshold)) out := if_neg (Nat.not_lt.mpr hthr)
  have hcheck : Config.cwStepup ≤ Config.cwStepup ∧ ((Decomp.plain x out).codeword p Config.cwStepup).fault = none
      ∧ ((Decomp.plain x out).codeword p Config.cwStepup).base.transparent = false := by
    rw [hword]
    exact ⟨le_rfl, rfl, htr⟩
  exact (if_pos hcheck).trans (congrArg some hword)

/-- R221: the code of the match brings D's dictionary up to C's, and D has put out the match. -/
theorem V42Base.Lags.complete (h : x.Lags p y s) (htr : y.transparent = false) {i : Nat} (hi : y.pendingCode = some i) :
    (Decomp.plain x out).complete p i = some (Decomp.plain y (out ++ s)) := by
  obtain ⟨huse, hstring⟩ := h.pending i hi
  have hlt := h.sound.arena.lt_of_inUse huse
  obtain ⟨h3, hused⟩ := V42Base.inUse_iff.mp huse
  have hfree : x.isFree i = false := by simpa [V42Base.isFree] using hused
  have hword : (Decomp.plain x out).codeword p i = Decomp.plain y (out ++ s) := by
    rw [Decomp.codeword_data h3, Decomp.dataCodeword, if_neg (by simp [Decomp.plain, hfree, hlt]),
      Decomp.outBytes_accepts]
    show Decomp.plain ((x.stringOf p i).foldl (V42Base.accepts p) x) (out ++ x.stringOf p i) = _
    rw [hstring, h.caught]
  have hcheck : Config.cwStepup ≤ i ∧ ((Decomp.plain x out).codeword p i).fault = none
      ∧ ((Decomp.plain x out).codeword p i).base.transparent = false := by
    rw [hword]
    exact ⟨(Nat.le_succ _).trans h3, rfl, htr⟩
  exact (if_pos hcheck).trans (congrArg some hword)

/-! ### What C holds back -/

/-- D behind C's octets, from reset. -/
def Comp.received (p : Params) (c : Comp) : Decomp := Decomp.atReset.writes p c.out

/-- D behind C's octets is in a block, and behind the bits that C holds back it is `v`. -/
def Comp.Leads (p : Params) (c : Comp) (v : Decomp) : Prop :=
  (c.received p).InBlock ∧ (c.received p).takeBits p (lowBits c.bitCnt c.bitBuf) = some v

theorem Comp.received_sound (hp : p.wf = true) (c : Comp) : (c.received p).Sound p :=
  (Decomp.atReset_sound hp).writes hp c.out

/-- R191, R200: C's queue only grows at its end. -/
theorem Comp.out_prefix_drain (fuel : Nat) (c : Comp) : c.out <+: (Comp.drain fuel c).out := by
  induction fuel generalizing c with
  | zero => exact List.prefix_rfl
  | succ n ih =>
    unfold Comp.drain
    split
    · refine List.IsPrefix.trans ?_ (ih _)
      exact List.prefix_append _ _
    · exact List.prefix_rfl

theorem Comp.out_prefix_putCodeword (c : Comp) (w : Nat) : c.out <+: (c.putCodeword w).out := by
  unfold Comp.putCodeword
  refine List.IsPrefix.trans ?_ (Comp.out_prefix_drain _ _)
  exact List.prefix_rfl

theorem Comp.out_prefix_pad (c : Comp) : c.out <+: c.pad.out := by
  unfold Comp.pad
  split
  · exact List.prefix_append _ _
  · exact List.prefix_rfl

/-- The octets that C has put out in between, by the bits. -/
theorem Comp.streamBits_of_append {c e : Comp} {os : List Octet} {bits : List Bool} (hos : e.out = c.out ++ os)
    (h : e.streamBits = c.streamBits ++ bits) :
    octetsBits os ++ lowBits e.bitCnt e.bitBuf = lowBits c.bitCnt c.bitBuf ++ bits := by
  rw [Comp.streamBits, Comp.streamBits, hos, octetsBits_append, List.append_assoc, List.append_assoc] at h
  exact List.append_cancel_left h

theorem Comp.received_append {c e : Comp} {os : List Octet} (hos : e.out = c.out ++ os) :
    e.received p = (c.received p).writes p os := by
  rw [Comp.received, hos, Decomp.writes, List.foldl_append]
  rfl

/-- R191: C puts a codeword out, and D takes its bits. -/
theorem Comp.Leads.putCodeword (hp : p.wf = true) (h : c.Leads p v) (hc : c.Sound p k) {w : Nat}
    (hw : w < 2 ^ c.base.codeWordSize) {m : Decomp} (hm : v.takeBits p (lowBits c.base.codeWordSize w) = some m) :
    (c.putCodeword w).Leads p m := by
  obtain ⟨hin, hv⟩ := h
  obtain ⟨hbits, -, -, -⟩ := Comp.putCodeword_streamBits c w hc.bitBuf hw
  obtain ⟨os, hos⟩ := c.out_prefix_putCodeword w
  have htake : (c.received p).takeBits p (octetsBits os ++ lowBits (c.putCodeword w).bitCnt (c.putCodeword w).bitBuf)
      = some m := by
    rw [Comp.streamBits_of_append hos.symm hbits, Decomp.takeBits_append, hv]
    exact hm
  rw [Decomp.takeBits_append] at htake
  obtain ⟨d, hd, hrest⟩ := Option.bind_eq_some_iff.mp htake
  obtain ⟨hwrites, hdin⟩ := Decomp.writes_of_takeBits hp (c.received_sound hp) hin hd
  have hrec : (c.putCodeword w).received p = d := (Comp.received_append hos.symm).trans hwrites
  exact ⟨hrec ▸ hdin, hrec ▸ hrest⟩

/-! ### STEPUPs and codes -/

/-- The widths are the same. -/
def V42Base.SameWidth (x y : V42Base) : Prop :=
  x.codeWordSize = y.codeWordSize ∧ x.codeWordThreshold = y.codeWordThreshold

/-- The dictionary at another's width. -/
abbrev V42Base.atWidthOf (x y : V42Base) : V42Base := x.setWidth y.codeWordSize y.codeWordThreshold

/-- R193, R220: a STEPUP in C and in D. -/
theorem Comp.Leads.stepup (hp : p.wf = true) (h : c.Leads p (Decomp.plain x out)) (hc : c.Sound p k)
    (hw : c.base.SameWidth x) (htr : x.transparent = false) (hlt : c.base.codeWordThreshold < p.maxCodeWords) :
    (c.stepup p).Leads p (Decomp.plain (x.atWidthOf (c.stepup p).base) out)
    ∧ (c.stepup p).base = c.base.atWidthOf (c.stepup p).base := by
  obtain ⟨hsize, hthr⟩ := hw
  obtain ⟨h9, -, -⟩ := hc.base.width
  obtain ⟨hs, hdouble⟩ := hc.stepup hp hlt
  have hctl := hc.control_lt (w := Config.cwStepup) (by decide)
  have hbase : (c.putCodeword Config.cwStepup).base = c.base := (hc.putCodeword hctl).2
  have hle : 2 * c.base.codeWordThreshold ≤ p.maxCodeWords := by
    rw [← hdouble]
    exact hs.base.width.2.2
  have hnew : (c.stepup p).base = c.base.setWidth (c.base.codeWordSize + 1) (2 * c.base.codeWordThreshold) := by
    show V42Base.setWidth (c.putCodeword Config.cwStepup).base _
      (min (2 * (c.putCodeword Config.cwStepup).base.codeWordThreshold) p.maxCodeWords) = _
    rw [hbase, min_eq_left hle]
  have htake : (Decomp.plain x out).takeBits p (lowBits c.base.codeWordSize Config.cwStepup)
      = some (Decomp.plain (x.setWidth (c.base.codeWordSize + 1) (2 * c.base.codeWordThreshold)) out) := by
    rw [hsize] at h9 hctl ⊢
    rw [hthr] at hle ⊢
    exact (Decomp.plain_takeBits h9 hctl).trans (Decomp.plain_stepup htr hle)
  rw [hnew]
  exact ⟨h.putCodeword hp hc hctl htake, rfl⟩

/-- R193: the loop of STEPUPs in C and in D. -/
theorem Comp.Leads.stepups (hp : p.wf = true) (code fuel : Nat) (h : c.Leads p (Decomp.plain x out)) (hc : c.Sound p k)
    (hw : c.base.SameWidth x) (htr : x.transparent = false) :
    (Comp.stepups p code fuel c).Leads p (Decomp.plain (x.atWidthOf (Comp.stepups p code fuel c).base) out)
    ∧ (Comp.stepups p code fuel c).base = c.base.atWidthOf (Comp.stepups p code fuel c).base := by
  induction fuel generalizing c x with
  | zero =>
    refine ⟨?_, rfl⟩
    show c.Leads p (Decomp.plain (x.setWidth c.base.codeWordSize c.base.codeWordThreshold) out)
    rw [hw.1, hw.2]
    exact h
  | succ n ih =>
    unfold Comp.stepups
    split_ifs with hturn
    · obtain ⟨hl, hb⟩ := h.stepup hp hc hw htr hturn.2
      obtain ⟨hl', hb'⟩ := ih hl (hc.stepup hp hturn.2).1 ⟨rfl, rfl⟩ htr
      refine ⟨hl', hb'.trans ?_⟩
      rw [hb]
      rfl
    · refine ⟨?_, rfl⟩
      show c.Leads p (Decomp.plain (x.setWidth c.base.codeWordSize c.base.codeWordThreshold) out)
      rw [hw.1, hw.2]
      exact h

/-- R194, R193, R191: C sends the code of the match, and D has what C had when the match was complete, at C's new width. -/
theorem Comp.Leads.sendCode (hp : p.wf = true) (h : c.Leads p (Decomp.plain x out)) (hc : c.Sound p k)
    (hw : c.base.SameWidth x) (hlag : x.Lags p y s) (htr : y.transparent = false) {i : Nat} (hi : y.pendingCode = some i) :
    ((c.checkDictSize p i).putCodeword i).Leads p
      (Decomp.plain (y.atWidthOf ((c.checkDictSize p i).putCodeword i).base) (out ++ s))
    ∧ ((c.checkDictSize p i).putCodeword i).base = c.base.atWidthOf ((c.checkDictSize p i).putCodeword i).base := by
  have hcode := hlag.sound.arena.lt_of_inUse (hlag.pending i hi).1
  have hxtr : x.transparent = false := by
    rw [← htr, ← hlag.caught]
    exact (V42Base.foldl_accepts_keeps s x).2.2.symm
  obtain ⟨hl, hb⟩ := h.stepups hp i p.maxCodeWords hc hw hxtr
  obtain ⟨hs, hlt⟩ := hc.stepups hp hcode p.maxCodeWords (Nat.le_add_left _ _)
  obtain ⟨h9, hthr, hle⟩ := hs.base.width
  have htake := (Decomp.plain_takeBits (p := p) (out := out) (x := x.atWidthOf (c.checkDictSize p i).base) h9 hlt).trans
    ((hlag.setWidth h9 hthr hle).complete htr hi)
  rw [Comp.putCodeword_base]
  exact ⟨hl.putCodeword hp hs hlt htake, hb⟩

end Sys2Proof.Machine
end

section
/-!
SUPPORT. The end of a block (44_compressor.md R198, R200; 45_decompressor.md R218, R219): FLUSH or ETM, and 0s up to an octet.
-/

namespace Sys2Proof.Machine

variable {p : Params} {c : Comp} {x : V42Base} {out : List Octet} {k : Nat}

/-- R198, R200: `j` bits hold the control codeword, the octet behind them is all 0s, the codeword's last bits and the padding. -/
theorem Comp.endBlock_bits (hc : c.Sound p k) {w : Nat} (hw : w < 2) :
    ∃ j os, j < c.base.codeWordSize ∧ c.base.codeWordSize ≤ j + 8 ∧ w < 2 ^ j
      ∧ (c.putCodeword w).pad.out = c.out ++ (os ++ [0])
      ∧ octetsBits os = lowBits c.bitCnt c.bitBuf ++ lowBits j w := by
  obtain ⟨h9, -, -⟩ := hc.base.width
  obtain ⟨hput, hcnt, hbuf, -⟩ :=
    Comp.putCodeword_streamBits c w hc.bitBuf (hc.control_lt (hw.trans (by decide)))
  obtain ⟨hpad, hzero⟩ := Comp.pad_streamBits (c.putCodeword w) hcnt hbuf
  rw [hput, List.append_assoc] at hpad
  have hn : (8 - (c.putCodeword w).bitCnt) % 8 < 8 := Nat.mod_lt _ (by decide)
  generalize (8 - (c.putCodeword w).bitCnt) % 8 = n at hpad hn
  obtain ⟨os, hos⟩ := (c.out_prefix_putCodeword w).trans (c.putCodeword w).out_prefix_pad
  have hbits := Comp.streamBits_of_append hos.symm hpad
  rw [show lowBits (c.putCodeword w).pad.bitCnt (c.putCodeword w).pad.bitBuf = [] by rw [hzero]; rfl,
    List.append_nil] at hbits
  obtain ⟨j, hj⟩ : ∃ j, c.base.codeWordSize = (j + 1) + (8 - n) := ⟨c.base.codeWordSize + n - 9, by omega⟩
  have hwj : w < 2 ^ (j + 1) := hw.trans_le (Nat.pow_le_pow_right two_pos (Nat.le_add_left 1 j))
  have hword : lowBits c.base.codeWordSize w = lowBits (j + 1) w ++ List.replicate (8 - n) false := by
    rw [hj, lowBits_add, Nat.mod_eq_of_lt hwj, Nat.div_eq_of_lt hwj, lowBits_zero]
  rw [hword, List.append_assoc, List.replicate_append_replicate, Nat.sub_add_cancel hn.le, ← List.append_assoc] at hbits
  rcases List.eq_nil_or_concat' os with rfl | ⟨os, o, rfl⟩
  · simpa using congrArg List.length hbits
  · rw [octetsBits_append] at hbits
    obtain ⟨hos', ho⟩ := List.append_inj' hbits (by simp)
    have ho : o = 0 := by
      rw [← octetOfBits_octetBits o, show octetBits o = List.replicate 8 false from (List.append_nil _).symm.trans ho]
      rfl
    exact ⟨j + 1, os, by omega, by omega, hwj, by rw [← hos, ho], hos'⟩

/-- R218, R219: a control codeword ends the block whatever 0s are left of its octet. -/
theorem Decomp.plain_endBlock {w n : Nat} (hw : w < 2) (hn : n < 8) :
    Decomp.codeword p { Decomp.plain x out with inCnt := n } w = (Decomp.plain x out).codeword p w := by
  have hcases : w = 0 ∨ w = 1 := by omega
  rcases hcases with rfl | rfl
  · rfl
  · show Decomp.doFlush _ = (Decomp.plain x out).doFlush
    simp only [Decomp.doFlush_eq, Decomp.plain, Nat.div_eq_of_lt hn, Nat.zero_div]

/-- R198, R218, R219: C ends the block and D takes the control codeword. -/
theorem Comp.Leads.endBlock (hp : p.wf = true) (h : c.Leads p (Decomp.plain x out)) (hc : c.Sound p k)
    (hsize : c.base.codeWordSize = x.codeWordSize) (htr : x.transparent = false) {w : Nat} (hw : w < 2) :
    (c.putCodeword w).pad.received p = (Decomp.plain x out).codeword p w := by
  obtain ⟨hin, hv⟩ := h
  obtain ⟨h9, -, -⟩ := hc.base.width
  obtain ⟨j, os, hj, hj8, hwj, hout, hbits⟩ := Comp.endBlock_bits hc hw
  rw [hsize] at h9 hj hj8
  have hheld : (Decomp.plain x out).takeBits p (lowBits j w) = some { Decomp.plain x out with inBuf := w, inCnt := j } := by
    refine (Decomp.takeBits_held j hwj ((Nat.zero_add j).trans_lt hj)).trans ?_
    simp [Decomp.plain]
  have htake : (c.received p).takeBits p (octetsBits os) = some { Decomp.plain x out with inBuf := w, inCnt := j } := by
    rw [hbits, Decomp.takeBits_append, hv]
    exact hheld
  obtain ⟨hwrites, -⟩ := Decomp.writes_of_takeBits hp (c.received_sound hp) hin htake
  have hlast := Decomp.compressedOctet_of_le (p := p) (d := { Decomp.plain x out with inBuf := w, inCnt := j }) (b := 0)
    hwj hj h9 htr rfl hj8
  have hlt : w < 2 ^ x.codeWordSize := hwj.trans (Nat.pow_lt_pow_right one_lt_two hj)
  have hword : w + (0 : Octet).toNat * 2 ^ j = w := by simp
  dsimp only at hlast
  rw [hword] at hlast
  calc (c.putCodeword w).pad.received p
      = Decomp.write p { Decomp.plain x out with inBuf := w, inCnt := j } 0 := by
        rw [Comp.received_append hout, Decomp.writes, List.foldl_append]
        exact congrArg (Decomp.write p · 0) hwrites
    _ = Decomp.codeword p { Decomp.plain x out with inCnt := j + 8 - x.codeWordSize } w := by
        rw [Decomp.write_compressed htr rfl, hlast, show (Decomp.plain x out).base = x from rfl, Nat.mod_eq_of_lt hlt,
          Nat.div_eq_of_lt hlt]
        rfl
    _ = (Decomp.plain x out).codeword p w := Decomp.plain_endBlock hw (by omega)

end Sys2Proof.Machine
end

section
/-!
SUPPORT. Lock step (43_v42bis_dictionary.md R178): D behind what C has put out, through C.WRITE (44_compressor.md R195), C.CMODE
(R196) and C.FLUSH (R197).
-/

namespace Sys2Proof.Machine

variable {p : Params} {c : Comp} {octets : List Octet} {k : Nat} {b : Octet}

/-! ### The invariant -/

/-- C holds nothing back: D has C's shared state and has put out the octets written, and holds no bits. -/
structure Comp.Settled (p : Params) (c : Comp) (octets : List Octet) : Prop where
  bitCnt : c.bitCnt = 0
  read   : c.received p = Decomp.plain c.base octets

/-- C holds the match back: behind the bits that C holds back D has C's shared state but for the match, and has put out the octets
written but for the match. -/
def Comp.Lagging (p : Params) (c : Comp) (octets : List Octet) : Prop :=
  ∃ x out s, c.Leads p (Decomp.plain x out) ∧ x.Lags p c.base s ∧ out ++ s = octets

/-- R178: in transparent mode C holds nothing back, in compressed mode the match. -/
structure Comp.InStep (p : Params) (c : Comp) (octets : List Octet) : Prop where
  settled : c.base.transparent = true → c.Settled p octets
  lagging : c.base.transparent = false → c.Lagging p octets

theorem Comp.atReset_inStep (p : Params) : Comp.atReset.InStep p [] :=
  ⟨fun _ => ⟨rfl, rfl⟩, nofun⟩

/-- With the match sent, or none begun, in compressed mode there is no lag. -/
theorem Comp.Settled.lagging (h : c.Settled p octets) (hc : c.Sound p k) (htr : c.base.transparent = false)
    (hnone : c.base.pendingCode = none) : c.Lagging p octets := by
  obtain ⟨hcnt, hread⟩ := h
  refine ⟨c.base, octets, [], ⟨?_, ?_⟩, hc.base.lags_nil hnone, List.append_nil _⟩
  · rw [hread]
    exact ⟨rfl, htr⟩
  · rw [hcnt, hread]
    rfl

/-- The invariant reads C's shared state and output only. -/
theorem Comp.InStep.congr {e : Comp} (h : c.InStep p octets) (hbase : e.base = c.base) (hcnt : e.bitCnt = c.bitCnt)
    (hbuf : e.bitBuf = c.bitBuf) (hout : e.out = c.out) : e.InStep p octets := by
  have hrec : e.received p = c.received p := by rw [Comp.received, hout]; rfl
  refine ⟨fun htr => ?_, fun htr => ?_⟩
  · obtain ⟨h0, hread⟩ := h.settled (hbase ▸ htr)
    exact ⟨hcnt.trans h0, by rw [hrec, hread, hbase]⟩
  · obtain ⟨x, out, s, ⟨hin, htake⟩, hlag, hocts⟩ := h.lagging (hbase ▸ htr)
    exact ⟨x, out, s, ⟨hrec ▸ hin, by rw [hrec, hcnt, hbuf, htake]⟩, hbase ▸ hlag, hocts⟩

/-! ### C.FLUSH and C.CMODE -/

/-- R198: the code of the match is sent, if there is one and it was not sent before. -/
def Comp.sendPending (p : Params) (c : Comp) : Comp :=
  match c.base.pendingCode with
  | none => c
  | some i => (c.checkDictSize p i).putCodeword i

/-- R198: the codeword that ends a block. -/
def blockEnd (enter : Bool) : Nat := if enter then Config.cwEtm else Config.cwFlush

theorem blockEnd_lt (enter : Bool) : blockEnd enter < 2 := by cases enter <;> decide

/-- R198: a control codeword and the padding end a block. -/
def Comp.closeBlock (c : Comp) (w : Nat) : Comp :=
  { (c.putCodeword w).pad with base := { (c.putCodeword w).pad.base with modeTransition := true } }

theorem Comp.closeBlock_base (w : Nat) : (c.closeBlock w).base = { c.base with modeTransition := true } := by
  rw [Comp.closeBlock, Comp.pad_base, Comp.putCodeword_base]

/-- R198: in compressed mode the match is sent, and the control codeword ends the block. -/
theorem Comp.flushInternal_compressed (htr : c.base.transparent = false) (enter : Bool) :
    c.flushInternal p enter = (c.sendPending p).closeBlock (blockEnd enter) := by
  unfold Comp.flushInternal Comp.sendPending V42Base.pendingCode
  rw [htr, if_neg Bool.false_ne_true]
  cases c.base.modeTransition with
  | true => cases c.base.curCode <;> rfl
  | false => cases c.base.curCode <;> rfl

theorem Comp.flushInternal_transparent (htr : c.base.transparent = true) (enter : Bool) : c.flushInternal p enter = c := by
  rw [Comp.flushInternal, htr, if_pos rfl]

/-- D's width and mode are C's (R193, R220). -/
theorem V42Base.Lags.sameWidth {x y : V42Base} {s : List Octet} (h : x.Lags p y s) :
    y.SameWidth x ∧ y.transparent = x.transparent := by
  obtain ⟨hsize, hthr, htr⟩ := V42Base.foldl_accepts_keeps (p := p) s x
  rw [h.caught] at hsize hthr htr
  exact ⟨⟨hsize, hthr⟩, htr⟩

/-- R198: with the match sent D has C's shared state and has put out all that was written. -/
theorem Comp.Lagging.sendPending (hp : p.wf = true) (h : c.Lagging p octets) (hc : c.Sound p k)
    (htr : c.base.transparent = false) :
    (c.sendPending p).Leads p (Decomp.plain (c.sendPending p).base octets)
    ∧ (c.sendPending p).Sound p k ∧ (c.sendPending p).base.transparent = false := by
  obtain ⟨x, out, s, hlead, hlag, rfl⟩ := h
  unfold Comp.sendPending
  cases hpend : c.base.pendingCode with
  | none =>
    have hs := hlag.idle hpend
    have hx : x = c.base := by rw [← hlag.caught, hs]; rfl
    refine ⟨?_, hc, htr⟩
    rw [hs, List.append_nil, ← hx]
    exact hlead
  | some i =>
    obtain ⟨hl, hbase⟩ := hlead.sendCode hp hc hlag.sameWidth.1 hlag htr hpend
    refine ⟨?_, hc.sendCode hp (hlag.sound.arena.lt_of_inUse (hlag.pending i hpend).1), ?_⟩
    · rw [← hbase] at hl
      exact hl
    · rw [hbase]
      exact htr

/-- R198: a flush settles what C held back. -/
theorem Comp.InStep.flushInternal (hp : p.wf = true) (h : c.InStep p octets) (hc : c.Sound p k)
    (htr : c.base.transparent = false) (enter : Bool) :
    (c.flushInternal p enter).bitCnt = 0
    ∧ (c.flushInternal p enter).received p
      = Decomp.plain { (c.flushInternal p enter).base with transparent := enter, modeTransition := true } octets := by
  obtain ⟨hl, hs, hstr⟩ := (h.lagging htr).sendPending hp hc htr
  have hctl := (blockEnd_lt enter).trans (show 2 < Config.cwReserved by decide)
  have hread := hl.endBlock hp hs rfl hstr (blockEnd_lt enter)
  have hput := (hs.putCodeword (hs.control_lt hctl)).1
  obtain ⟨-, hpad⟩ := Comp.pad_streamBits _ hput.bitCnt hput.bitBuf
  rw [Comp.flushInternal_compressed htr]
  refine ⟨congrArg Comp.bitCnt hpad, hread.trans ?_⟩
  rw [Comp.closeBlock_base]
  cases enter with
  | true => rfl
  | false =>
    show Decomp.doFlush _ = _
    rw [← hstr]
    rfl

/-- Settled, and in compressed mode with no match to be sent, C is in step. -/
theorem Comp.Settled.inStep (h : c.Settled p octets) (hc : c.Sound p k)
    (hnone : c.base.transparent = false → c.base.pendingCode = none) : c.InStep p octets :=
  ⟨fun _ => h, fun htr => h.lagging hc htr (hnone htr)⟩

/-- R197: C.FLUSH settles what C held back. -/
theorem Comp.InStep.flush (hp : p.wf = true) (h : c.InStep p octets) (hc : c.Sound p k) :
    (c.flush p).Settled p octets ∧ (c.flush p).InStep p octets := by
  unfold Comp.flush
  by_cases htr : c.base.transparent = true
  · rw [Comp.flushInternal_transparent htr]
    exact ⟨h.settled htr, h⟩
  · have htr := Bool.eq_false_iff.mpr htr
    obtain ⟨hcnt, hread⟩ := h.flushInternal hp hc htr false
    have hbase : { (c.flushInternal p false).base with transparent := false, modeTransition := true }
        = (c.flushInternal p false).base := by
      rw [Comp.flushInternal_compressed htr, Comp.closeBlock_base, ← ((h.lagging htr).sendPending hp hc htr).2.2]
    have hset : (c.flushInternal p false).Settled p octets := ⟨hcnt, hread.trans (by rw [hbase])⟩
    refine ⟨hset, hset.inStep (hc.flushInternal hp false) fun _ => ?_⟩
    rw [← hbase]
    rfl

/-- R196, R213: from transparent mode, the escape code and ECM. -/
theorem Comp.Settled.received_escape (h : c.Settled p octets) (htr : c.base.transparent = true) (cmd : Octet) :
    (c.emit [c.base.escapeCode, cmd]).received p = (Decomp.plain c.base octets).command p cmd := by
  rw [Comp.received_append (c := c) (os := [c.base.escapeCode, cmd]) rfl, h.read]
  exact Decomp.pair_eq_command htr rfl rfl cmd

/-- R196: C.CMODE settles what C held back, and D changes its mode with C. -/
theorem Comp.InStep.changeMode (hp : p.wf = true) (h : c.InStep p octets) (hc : c.Sound p k) :
    (c.changeMode p).Settled p octets ∧ (c.changeMode p).InStep p octets := by
  have hset : (c.changeMode p).Settled p octets := by
    by_cases htr : c.base.transparent = true
    · have hread := (h.settled htr).received_escape htr p.ecm
      rw [(Decomp.command_eq hp _).1] at hread
      unfold Comp.changeMode
      rw [if_pos htr]
      exact ⟨(h.settled htr).bitCnt, hread⟩
    · obtain ⟨hcnt, hread⟩ := h.flushInternal hp hc (Bool.eq_false_iff.mpr htr) true
      unfold Comp.changeMode
      rw [if_neg htr]
      exact ⟨hcnt, hread⟩
  refine ⟨hset, hset.inStep (hc.changeMode hp) fun _ => ?_⟩
  rfl

end Sys2Proof.Machine
end

section
/-!
SUPPORT. C.WRITE in lock step (44_compressor.md R195, 43_v42bis_dictionary.md R178), and the run of C and D from their resets.
-/

namespace Sys2Proof.Machine

variable {p : Params} {c : Comp} {y : V42Base} {octets : List Octet} {k : Nat} {b : Octet}

/-! ### The end of a match in C -/

/-- R176: a byte that extends the match ends none. -/
theorem V42Base.rollEscape_extends {ch : Nat} (h : y.extension b = some ch) :
    ((y.rollEscape b).acceptChar p b).2 = none := by
  rw [V42Base.acceptChar_extends ((y.extension_rollEscape b).trans h)]

/-- R176: a byte that does not extend the match ends it; its code is the one that was pending. -/
theorem V42Base.rollEscape_ends (h : y.extension b = none) :
    ((y.rollEscape b).acceptChar p b).2 = y.pendingCode.map fun i => (i, y.matchLen) := by
  have hext := (y.extension_rollEscape b).trans h
  have hroll := y.rollEscape_eq b
  unfold V42Base.pendingCode
  cases hi : y.curCode with
  | none =>
    rw [V42Base.acceptChar_of_none (by rw [hroll]; exact hi)]
    simp
  | some i =>
    rw [V42Base.acceptChar_ends (by rw [hroll]; exact hi) hext, hroll]
    show (if y.modeTransition then none else some (i, y.matchLen)) = _
    cases y.modeTransition <;> rfl

/-- R176: `acceptChar` of C where no match ends. -/
theorem Comp.acceptChar_of_none (h : (c.base.acceptChar p b).2 = none) :
    c.acceptChar p b = { c with base := (c.base.acceptChar p b).1 } := by
  unfold Comp.acceptChar
  generalize c.base.acceptChar p b = r at h ⊢
  obtain ⟨x, ended⟩ := r
  cases h
  rfl

/-- R176, R177: `acceptChar` of C where a match ends. -/
theorem Comp.acceptChar_of_some {i len : Nat} (h : (c.base.acceptChar p b).2 = some (i, len)) :
    c.acceptChar p b = Comp.matchEnd p { c with base := (c.base.acceptChar p b).1 } i len := by
  unfold Comp.acceptChar
  generalize c.base.acceptChar p b = r at h ⊢
  obtain ⟨x, ended⟩ := r
  cases h
  rfl

/-- R194: in transparent mode the end of a match is counted only. -/
theorem Comp.acceptChar_transparent (htr : c.base.transparent = true) (b : Octet) :
    ∃ test, c.acceptChar p b = { c with base := (c.base.acceptChar p b).1, compressTest := test } := by
  cases h : (c.base.acceptChar p b).2 with
  | none => exact ⟨c.compressTest, Comp.acceptChar_of_none h⟩
  | some e =>
    rw [Comp.acceptChar_of_some h, Comp.matchEnd, if_pos (by exact (V42Base.acceptChar_transparent b).trans htr)]
    exact ⟨_, rfl⟩

/-- R193: STEPUPs leave the mode. -/
theorem Comp.stepups_transparent (code fuel : Nat) (c : Comp) :
    (Comp.stepups p code fuel c).base.transparent = c.base.transparent := by
  induction fuel generalizing c with
  | zero => rfl
  | succ n ih =>
    unfold Comp.stepups
    split
    · rw [ih]
      simp [Comp.stepup]
    · rfl

/-- R176, R194: `acceptChar` of C leaves the mode. -/
theorem Comp.acceptChar_mode (c : Comp) (b : Octet) : (c.acceptChar p b).base.transparent = c.base.transparent := by
  cases h : (c.base.acceptChar p b).2 with
  | none =>
    rw [Comp.acceptChar_of_none h]
    exact V42Base.acceptChar_transparent b
  | some e =>
    rw [Comp.acceptChar_of_some h]
    unfold Comp.matchEnd
    dsimp only
    split
    · exact V42Base.acceptChar_transparent b
    · rw [Comp.putCodeword_base]
      exact (Comp.stepups_transparent _ _ _).trans (V42Base.acceptChar_transparent b)

/-! ### C.WRITE -/

/-- R195, R212, R214: in transparent mode the raw octet, with EID behind it where it is the escape code, is the octet in D. -/
theorem Comp.Settled.writeRaw (hp : p.wf = true) (h : c.Settled p octets) (htr : c.base.transparent = true) (b : Octet) :
    (c.writeRaw p b).received p = Decomp.plain (c.base.accepts p b) (octets ++ [b]) := by
  unfold Comp.writeRaw
  rw [htr, if_pos rfl]
  by_cases hb : b = c.base.escapeCode
  · rw [if_pos hb, hb]
    refine (h.received_escape htr p.eid).trans ?_
    rw [(Decomp.command_eq hp _).2.1]
    rfl
  · rw [if_neg hb]
    refine (Comp.received_append (c := c) (os := [b]) rfl).trans ?_
    rw [h.read]
    refine (Decomp.write_transparent (d := Decomp.plain c.base octets) htr rfl b).trans ?_
    rw [Decomp.transparentOctet_data rfl hb]
    rfl

/-- R195: C.WRITE in transparent mode, but for the mode test. -/
theorem Comp.Settled.accept (hp : p.wf = true) (h : c.Settled p octets) (htr : c.base.transparent = true) (b : Octet) :
    ((c.writeRaw p b).acceptChar p b).Settled p (octets ++ [b]) := by
  have hread := h.writeRaw hp htr b
  obtain ⟨test, he⟩ := Comp.acceptChar_transparent (p := p) (c := c.writeRaw p b)
    ((V42Base.rollEscape_transparent b).trans htr) b
  rw [he]
  exact ⟨h.bitCnt, hread⟩

/-- R195: in compressed mode only the escape code rolls before the dictionary accepts the octet. -/
theorem Comp.writeRaw_compressed (htr : c.base.transparent = false) (b : Octet) :
    c.writeRaw p b = { c with base := c.base.rollEscape b } := by
  unfold Comp.writeRaw Comp.emit
  rw [htr, if_neg Bool.false_ne_true]
  dsimp only
  rw [List.append_nil]

/-- R194: a match that ended is sent, and the octet that ended it is lacking. -/
theorem Comp.Leads.sendMatch (hp : p.wf = true) {x : V42Base} {out s : List Octet} (h : c.Leads p (Decomp.plain x out))
    (hc : c.Sound p k) (hy : y.Sound p) (hlag : x.Lags p y s) (htr : y.transparent = false) {i : Nat}
    (hi : y.pendingCode = some i) (hext : y.extension b = none) (hbase : c.base = y.accepts p b) :
    ((c.checkDictSize p i).putCodeword i).Lagging p (out ++ s ++ [b]) := by
  obtain ⟨⟨hsize, hthr⟩, -⟩ := hlag.sameWidth
  obtain ⟨hsize', hthr', -⟩ := V42Base.accepts_keeps (p := p) y b
  rw [← hbase] at hsize' hthr'
  obtain ⟨hl, hnew⟩ := h.sendCode hp hc ⟨hsize'.trans hsize, hthr'.trans hthr⟩ hlag htr hi
  have hsent := hc.sendCode hp (hlag.sound.arena.lt_of_inUse (hlag.pending i hi).1)
  obtain ⟨h9, hpow, hle⟩ := hsent.base.width
  refine ⟨_, out ++ s, [b], hl, ?_, rfl⟩
  have hnext := (hy.lags_restart hp hext).setWidth h9 hpow hle
  rw [← hbase] at hnext
  exact (congrArg (V42Base.Lags p _ · _) hnew).mpr hnext

/-- R194: in compressed mode the end of a match is counted and sent. -/
theorem Comp.matchEnd_compressed (htr : c.base.transparent = false) (code len : Nat) :
    ∃ test, c.matchEnd p code len = (Comp.checkDictSize p { c with compressTest := test } code).putCodeword code := by
  unfold Comp.matchEnd
  exact ⟨_, if_neg (by rw [htr]; exact Bool.false_ne_true)⟩

/-- R195, R194: C.WRITE in compressed mode, but for the mode test: the octet is lacking behind the match, or the match is sent
and the octet is lacking. -/
theorem Comp.Lagging.accept (hp : p.wf = true) (h : c.Lagging p octets) (hc : c.Sound p k)
    (htr : c.base.transparent = false) (b : Octet) :
    ((c.writeRaw p b).acceptChar p b).Lagging p (octets ++ [b]) := by
  obtain ⟨x, out, s, hlead, hlag, rfl⟩ := h
  rw [Comp.writeRaw_compressed htr]
  cases hext : c.base.extension b with
  | some ch =>
    rw [Comp.acceptChar_of_none (V42Base.rollEscape_extends hext)]
    exact ⟨x, out, s ++ [b], hlead, hlag.extend hp hc.base hext, (List.append_assoc _ _ _).symm⟩
  | none =>
    have hended := V42Base.rollEscape_ends (p := p) hext
    have hnext := hc.base.lags_restart hp hext
    cases hpend : c.base.pendingCode with
    | none =>
      rw [hpend] at hended
      have hs := hlag.idle hpend
      have hx : x = c.base := by rw [← hlag.caught, hs]; rfl
      rw [Comp.acceptChar_of_none hended, hs, List.append_nil]
      exact ⟨c.base, out, [b], hx ▸ hlead, hnext, rfl⟩
    | some i =>
      rw [hpend] at hended
      obtain ⟨-, -, hkeeps⟩ := V42Base.accepts_keeps (p := p) c.base b
      obtain ⟨test, htest⟩ := Comp.matchEnd_compressed (p := p) (c := { c with base := c.base.accepts p b })
        (hkeeps.trans htr) i c.base.matchLen
      rw [Comp.acceptChar_of_some hended]
      refine (congrArg (Comp.Lagging p · _) htest).mpr ?_
      have hsound := hc.setBase (hc.base.accepts hp b)
      exact Comp.Leads.sendMatch hp (c := { c with base := c.base.accepts p b, compressTest := test }) hlead
        ⟨hsound.base, hsound.bitCnt, hsound.bitBuf, hsound.testPos, hsound.testLast⟩ hc.base hlag htr hpend hext rfl

/-- R195, step 3: the mode test. -/
theorem Comp.InStep.modeTest (hp : p.wf = true) (h : c.InStep p octets) (hc : c.Sound p 1) :
    (c.modeTest p).InStep p octets := by
  have hcount : ({ c with testCount := c.testCount - 1 } : Comp).Sound p 0 :=
    ⟨hc.base, hc.bitCnt, hc.bitBuf, Nat.zero_le _, (Nat.sub_le _ _).trans hc.testLast⟩
  have hstep : ({ c with testCount := c.testCount - 1 } : Comp).InStep p octets := h.congr rfl rfl rfl rfl
  unfold Comp.modeTest
  dsimp only
  split_ifs
  · exact (hstep.changeMode hp hcount).2
  · exact h.congr rfl rfl rfl rfl
  · exact hstep

/-- R195: C.WRITE. -/
theorem Comp.InStep.write (hp : p.wf = true) (h : c.InStep p octets) (hc : c.Sound p 1) (b : Octet) :
    (c.write p b).InStep p (octets ++ [b]) := by
  have hsound := (hc.writeRaw b).acceptChar hp b
  have hmode : ((c.writeRaw p b).acceptChar p b).base.transparent = c.base.transparent :=
    (Comp.acceptChar_mode _ b).trans (V42Base.rollEscape_transparent b)
  refine Comp.InStep.modeTest hp ⟨fun htr => ?_, fun htr => ?_⟩ hsound
  · rw [hmode] at htr
    exact (h.settled htr).accept hp htr b
  · rw [hmode] at htr
    exact (h.lagging htr).accept hp hc htr b

/-! ### The run -/

/-- What an operation of C does to C (R195 to R197). -/
def Comp.run (p : Params) (c : Comp) : Instr → Comp
  | .cWrite b => c.write p b
  | .cCmode => c.changeMode p
  | .cFlush => c.flush p
  | _ => c

/-- The octet that an operation writes to C, if it does. -/
def octetsWritten : Instr → List Octet
  | .cWrite b => [b]
  | _ => []

/-- The operations of C that the program of R178 is made of. -/
def DrivesC (i : Instr) : Prop := i = .cCmode ∨ i = .cFlush ∨ ∃ b, i = .cWrite b

/-- R195 to R197: an operation of C keeps C's legal values and the lock step. -/
theorem Comp.InStep.run (hp : p.wf = true) (h : c.InStep p octets) (hc : c.Sound p 1) {i : Instr} (hi : DrivesC i) :
    (c.run p i).InStep p (octets ++ octetsWritten i) ∧ (c.run p i).Sound p 1 := by
  rcases hi with rfl | rfl | ⟨b, rfl⟩
  · exact ⟨(List.append_nil octets).symm ▸ (h.changeMode hp hc).2, hc.changeMode hp⟩
  · exact ⟨(List.append_nil octets).symm ▸ (h.flush hp hc).2, hc.flush hp⟩
  · exact ⟨h.write hp hc b, hc.write hp b⟩

/-- R178: between the operations of a program of C. -/
theorem Comp.InStep.runs (hp : p.wf = true) (h : c.InStep p octets) (hc : c.Sound p 1) {is : List Instr}
    (his : ∀ i ∈ is, DrivesC i) :
    (is.foldl (Comp.run p) c).InStep p (octets ++ is.flatMap octetsWritten) ∧ (is.foldl (Comp.run p) c).Sound p 1 := by
  induction is generalizing c octets with
  | nil => exact ⟨(List.append_nil octets).symm ▸ h, hc⟩
  | cons i is ih =>
    obtain ⟨hi, hci⟩ := h.run hp hc (his i List.mem_cons_self)
    rw [List.flatMap_cons, ← List.append_assoc]
    exact ih hi hci fun j hj => his j (List.mem_cons_of_mem i hj)

theorem exec_drivesC {s : State} {i : Instr} (hw : s.written.c = true) (hi : DrivesC i) :
    exec i s = .next ((s.setC (s.c.run s.cfg i)).answer .none) := by
  rcases hi with rfl | rfl | ⟨b, rfl⟩ <;> exact whenWritten_of_written hw _

/-- A program of C changes C only, up to the answers. -/
theorem execAll_drivesC {s : State} {is : List Instr} (hw : s.written.c = true) (his : ∀ i ∈ is, DrivesC i) :
    ∃ r rs, execAll is s = some ((s.setC (is.foldl (Comp.run s.cfg) s.c)).answer r, rs) := by
  induction is generalizing s with
  | nil => exact ⟨s.result, [], rfl⟩
  | cons i is ih =>
    have hi := exec_drivesC hw (his i List.mem_cons_self)
    obtain ⟨r, rs, hrs⟩ := ih (s := (s.setC (s.c.run s.cfg i)).answer .none) hw fun j hj => his j (List.mem_cons_of_mem i hj)
    exact ⟨r, _ :: rs, by rw [execAll_cons hi, hrs]; rfl⟩

/-- R190, R210: the machine behind C.RESET and D.RESET. -/
def State.codecReset (s : State) : State :=
  (((s.setC Comp.atReset).setD Decomp.atReset).setWritten { s.written with c := true, d := true }).answer .none

theorem execAll_resets (s : State) (is : List Instr) :
    execAll (.cReset :: .dReset :: is) s
      = (execAll is s.codecReset).map fun r => (r.1, .none :: .none :: r.2) := by
  rw [execAll_cons (i := .cReset) rfl, execAll_cons (i := .dReset) rfl, Option.map_map]
  rfl

/-- R196, R197: C.FLUSH and C.CMODE settle what C held back. -/
theorem Comp.InStep.settles (hp : p.wf = true) (h : c.InStep p octets) (hc : c.Sound p 1) {last : Instr}
    (hlast : last ∈ [Instr.cFlush, .cCmode]) : (c.run p last).Settled p octets := by
  rcases List.mem_pair.mp hlast with rfl | rfl
  · exact (h.flush hp hc).1
  · exact (h.changeMode hp hc).1

/-- Settles O50: by induction on the program C and D are in step (`Comp.InStep.runs`), and the last operation settles what C held
back (`Comp.InStep.settles`). -/
theorem lockStepAfterFlush : Obligations.LockStepAfterFlush := by
  intro s is hp his last hlast
  have hdrives : ∀ i ∈ is ++ [last], DrivesC i := fun i hi => by
    rcases List.mem_append.mp hi with hi | hi
    · exact his i hi
    · rw [List.mem_singleton.mp hi]
      exact (List.mem_pair.mp hlast).elim (fun h => .inr (.inl h)) .inl
  obtain ⟨hstep, hsound⟩ := (Comp.atReset_inStep s.cfg).runs hp (Comp.atReset_sound hp) his
  obtain ⟨-, hread⟩ := hstep.settles hp hsound hlast
  have hlastRun : (is ++ [last]).foldl (Comp.run s.cfg) Comp.atReset
      = (is.foldl (Comp.run s.cfg) Comp.atReset).run s.cfg last := List.foldl_append
  rw [← hlastRun] at hread
  obtain ⟨r, rs, hrun⟩ := execAll_drivesC (s := s.codecReset) rfl hdrives
  obtain ⟨q, bs, hwrites⟩ := execAll_dWrites
    (s := (s.codecReset.setC ((is ++ [last]).foldl (Comp.run s.cfg) Comp.atReset)).answer r) rfl
    ((is ++ [last]).foldl (Comp.run s.cfg) Comp.atReset).out
  refine ⟨_, _, _, bs, by rw [execAll_resets, hrun]; rfl, hwrites, ?_⟩
  show (Comp.received s.cfg _).fault = none ∧ (Comp.received s.cfg _).base = _ ∧ (Comp.received s.cfg _).out = _
  rw [hread]
  exact ⟨rfl, rfl, rfl⟩

end Sys2Proof.Machine
end

section
/-!
SUPPORT. The codewords that C puts out (44_compressor.md R191, R193): what is queued, and all that they write, which is the width,
the pending bits and the queue.
-/

namespace Sys2Proof.Machine

variable {p : Params} {c d e : Comp} {bits more : List Bool} {code : Nat}

/-! ### Bits behind the stream -/

/-- `e` is `c` with `bits` behind its stream: only the width, the pending bits and the queue have changed (R191, R193). -/
structure Comp.Sends (c e : Comp) (bits : List Bool) : Prop where
  stream       : e.streamBits = c.streamBits ++ bits
  held         : e.bitBuf < 2 ^ e.bitCnt
  queue        : c.out <+: e.out
  base         : e.base = c.base.atWidthOf e.base
  compressTest : e.compressTest = c.compressTest
  testCount    : e.testCount = c.testCount

theorem Comp.Sends.refl (hb : c.bitBuf < 2 ^ c.bitCnt) : c.Sends c [] :=
  ⟨(List.append_nil _).symm, hb, List.prefix_rfl, rfl, rfl, rfl⟩

theorem Comp.Sends.trans (h : c.Sends d bits) (h' : d.Sends e more) : c.Sends e (bits ++ more) where
  stream       := by rw [h'.stream, h.stream, List.append_assoc]
  held         := h'.held
  queue        := h.queue.trans h'.queue
  base         := by
    have hbase := h'.base
    rw [h.base] at hbase
    exact hbase
  compressTest := h'.compressTest.trans h.compressTest
  testCount    := h'.testCount.trans h.testCount

/-- The frame of `Comp.Sends` as one update. -/
theorem Comp.Sends.eq (h : c.Sends e bits) :
    e = { c with base := c.base.atWidthOf e.base, bitBuf := e.bitBuf, bitCnt := e.bitCnt, out := e.out } := by
  rw [← h.base, ← h.compressTest, ← h.testCount]

/-- R191: a codeword at the present width. -/
theorem Comp.sends_putCodeword {w : Nat} (hb : c.bitBuf < 2 ^ c.bitCnt) (hw : w < 2 ^ c.base.codeWordSize) :
    c.Sends (c.putCodeword w) (lowBits c.base.codeWordSize w) := by
  obtain ⟨hstream, -, hheld, heq⟩ := Comp.putCodeword_streamBits c w hb hw
  exact ⟨hstream, hheld, c.out_prefix_putCodeword w, by rw [Comp.putCodeword_base]; rfl, by rw [heq], by rw [heq]⟩

/-! ### STEPUPs and the codeword (R193, R194) -/

/-- A codeword below the first width's bound fits the present width. -/
theorem V42Base.widthInv.lt_two_pow {x : V42Base} (h : x.widthInv p) {w : Nat} (hw : w < 2 ^ 9) : w < 2 ^ x.codeWordSize := by
  obtain ⟨h9, -, -⟩ := h
  exact hw.trans_le (Nat.pow_le_pow_right two_pos h9)

/-- R193: one STEPUP at the old width; then width and threshold are the next ones. -/
theorem Comp.sends_stepup (hp : p.wf = true) (hw : c.base.widthInv p) (hb : c.bitBuf < 2 ^ c.bitCnt)
    (hlt : c.base.codeWordThreshold < p.maxCodeWords) :
    c.Sends (c.stepup p) (lowBits c.base.codeWordSize Config.cwStepup)
    ∧ (c.stepup p).base = c.base.setWidth (c.base.codeWordSize + 1) (2 ^ (c.base.codeWordSize + 1))
    ∧ (c.stepup p).base.widthInv p := by
  have hput := Comp.sends_putCodeword hb (hw.lt_two_pow (w := Config.cwStepup) (by decide))
  obtain ⟨h9, hthr, -⟩ := hw
  have hle : 2 ^ (c.base.codeWordSize + 1) ≤ p.maxCodeWords := Params.two_pow_succ_le hp (hthr ▸ hlt)
  have hmin : min (2 * c.base.codeWordThreshold) p.maxCodeWords = 2 ^ (c.base.codeWordSize + 1) := by
    rw [hthr, ← pow_succ', min_eq_left hle]
  have hbase : (c.stepup p).base = c.base.setWidth (c.base.codeWordSize + 1) (2 ^ (c.base.codeWordSize + 1)) := by
    rw [← hmin]
    simp only [Comp.stepup, Comp.putCodeword_base]
    rfl
  have hwidth : (c.base.setWidth (c.base.codeWordSize + 1) (2 ^ (c.base.codeWordSize + 1))).widthInv p :=
    ⟨h9.trans (Nat.le_succ _), rfl, hle⟩
  exact ⟨⟨hput.stream, hput.held, hput.queue, by rw [hbase]; rfl, hput.compressTest, hput.testCount⟩, hbase, hbase ▸ hwidth⟩

/-- `e` is `c` after the `k` STEPUPs that make the width hold the next slot and `code` (R193). -/
structure Comp.Widens (c e : Comp) (code k : Nat) : Prop where
  holds : max c.base.nextCodeWord code < 2 ^ (c.base.codeWordSize + k)
  least : ∀ j < k, 2 ^ (c.base.codeWordSize + j) ≤ max c.base.nextCodeWord code
  base  : e.base = c.base.setWidth (c.base.codeWordSize + k) (2 ^ (c.base.codeWordSize + k))
  sends : c.Sends e ((List.range k).flatMap fun j => lowBits (c.base.codeWordSize + j) Config.cwStepup)

/-- R193: a width that holds both stays. -/
theorem Comp.widens_zero (hb : c.bitBuf < 2 ^ c.bitCnt) (hthr : c.base.codeWordThreshold = 2 ^ c.base.codeWordSize)
    (hlt : max c.base.nextCodeWord code < c.base.codeWordThreshold) : c.Widens c code 0 :=
  ⟨hthr ▸ hlt, nofun, by rw [Nat.add_zero, ← hthr]; rfl, Comp.Sends.refl hb⟩

/-- R193: one more STEPUP in front. -/
theorem Comp.Widens.succ {k : Nat} (h : d.Widens e code k)
    (hsends : c.Sends d (lowBits c.base.codeWordSize Config.cwStepup))
    (hbase : d.base = c.base.setWidth (c.base.codeWordSize + 1) (2 ^ (c.base.codeWordSize + 1)))
    (hle : 2 ^ c.base.codeWordSize ≤ max c.base.nextCodeWord code) : c.Widens e code (k + 1) := by
  obtain ⟨hholds, hleast, hwidth, hrest⟩ := h
  have hsize : ∀ j, d.base.codeWordSize + j = c.base.codeWordSize + (j + 1) := fun j => by
    rw [hbase]
    exact Nat.add_right_comm _ 1 j
  have hnext : d.base.nextCodeWord = c.base.nextCodeWord := by rw [hbase]; rfl
  simp only [hsize, hnext] at hholds hleast hwidth hrest
  refine ⟨hholds, fun j hj => ?_, by rw [hwidth, hbase]; rfl, ?_⟩
  · cases j with
    | zero => exact hle
    | succ j => exact hleast j (Nat.lt_of_succ_lt_succ hj)
  · rw [List.range_succ_eq_map, List.flatMap_cons, List.flatMap_map]
    exact hsends.trans hrest

/-- R193: the loop, with turns enough for the threshold to pass the arena. -/
theorem Comp.stepups_widens (hp : p.wf = true) (fuel : Nat) (hw : c.base.widthInv p) (hb : c.bitBuf < 2 ^ c.bitCnt)
    (hmax : max c.base.nextCodeWord code < p.maxCodeWords) (hf : p.maxCodeWords ≤ c.base.codeWordThreshold + fuel) :
    ∃ k, c.Widens (Comp.stepups p code fuel c) code k := by
  obtain ⟨-, hthr, -⟩ := id hw
  induction fuel generalizing c with
  | zero => exact ⟨0, Comp.widens_zero hb hthr (by omega)⟩
  | succ n ih =>
    unfold Comp.stepups
    split_ifs with hturn
    · obtain ⟨hle, hlt⟩ := hturn
      obtain ⟨hsends, hbase, hwidth⟩ := Comp.sends_stepup hp hw hb hlt
      obtain ⟨-, hthr', -⟩ := id hwidth
      have hgrows : c.base.codeWordThreshold + 1 ≤ (c.stepup p).base.codeWordThreshold := by
        rw [hthr, hbase]
        exact Nat.pow_lt_pow_right one_lt_two (Nat.lt_succ_self _)
      have hnext : (c.stepup p).base.nextCodeWord = c.base.nextCodeWord := by rw [hbase]; rfl
      obtain ⟨k, hk⟩ := ih hwidth hsends.held (hnext ▸ hmax) (by omega) hthr'
      exact ⟨k + 1, hk.succ hsends hbase (hthr ▸ hle)⟩
    · exact ⟨0, Comp.widens_zero hb hthr (by omega)⟩

/-- R193, R191: the STEPUPs that `code` needs, then `code`. -/
theorem Comp.sends_code (hp : p.wf = true) (hw : c.base.widthInv p) (hb : c.bitBuf < 2 ^ c.bitCnt)
    (hnext : c.base.nextCodeWord < p.maxCodeWords) (hcode : code < p.maxCodeWords) :
    ∃ k bits, c.base.stepsTo ((c.checkDictSize p code).putCodeword code).base c.base.nextCodeWord code k bits
      ∧ c.Sends ((c.checkDictSize p code).putCodeword code) bits := by
  obtain ⟨k, hk⟩ := Comp.stepups_widens hp p.maxCodeWords hw hb (max_lt hnext hcode) (Nat.le_add_left _ _)
  have hsize : (c.checkDictSize p code).base.codeWordSize = c.base.codeWordSize + k := congrArg V42Base.codeWordSize hk.base
  have hfits : code < 2 ^ (c.checkDictSize p code).base.codeWordSize := by
    rw [hsize]
    exact (le_max_right _ _).trans_lt hk.holds
  have hput := hk.sends.trans (Comp.sends_putCodeword hk.sends.held hfits)
  refine ⟨k, _, ⟨hk.holds, hk.least, ?_, ?_, rfl⟩, hsize ▸ hput⟩
  · rw [Comp.putCodeword_base]
    exact hsize
  · rw [Comp.putCodeword_base]
    exact congrArg V42Base.codeWordThreshold hk.base

end Sys2Proof.Machine
end

section
/-!
SUPPORT. C.WRITE (44_compressor.md R195) step by step: the raw octet, the end of the match, and the mode test (R192).
-/

namespace Sys2Proof.Machine

variable {s : State} {p : Params} {c : Comp} {x : V42Base} {b : Octet} {n : Nat}

/-! ### The steps -/

/-- R195: the octet is accepted after the escape code has rolled. -/
theorem V42Base.rollEscape_with (x : V42Base) (b : Octet) :
    x.rollEscape b = { x with escapeCode := if b = x.escapeCode then x.escapeCode + 51 else x.escapeCode } := by
  unfold V42Base.rollEscape
  split <;> rfl

/-- R195: in transparent mode the octet goes out raw, with EID behind it where it is the escape code. -/
theorem Comp.writeRaw_transparent (htr : c.base.transparent = true) (b : Octet) :
    c.writeRaw p b = { c with
      base := c.base.rollEscape b
      out := c.out ++ b :: if b = c.base.escapeCode then [p.eid] else [] } := by
  unfold Comp.writeRaw Comp.emit
  rw [htr, if_pos rfl]
  split <;> rfl

/-- R194: the end of a match is added to the accumulator. -/
theorem Comp.matchEnd_transparent (htr : c.base.transparent = true) (code len : Nat) :
    c.matchEnd p code len = { c with
      compressTest := c.compressTest + 8 * (len : Int) - (c.base.codeWordSize : Int) } := by
  unfold Comp.matchEnd
  exact if_pos htr

/-- R195, R192: while more than one write is left of the period there is no test. -/
theorem Comp.modeTest_of_two_le (h : 2 ≤ c.testCount) : c.modeTest p = { c with testCount := c.testCount - 1 } :=
  if_neg (by show c.testCount - 1 ≠ 0; omega)

/-- R195: C.WRITE while more than one write is left of the period. -/
theorem exec_cWrite_of_two_le (hw : s.written.c = true)
    (hcount : 2 ≤ ((s.c.writeRaw s.cfg b).acceptChar s.cfg b).testCount) :
    exec (.cWrite b) s = .next { s with
      c := { (s.c.writeRaw s.cfg b).acceptChar s.cfg b with
        testCount := ((s.c.writeRaw s.cfg b).acceptChar s.cfg b).testCount - 1 }
      result := .none } := by
  rw [exec_cWrite hw, Comp.write, Comp.modeTest_of_two_le hcount]
  rfl

/-- Settles O41: the raw octet (`writeRaw_transparent`), then `acceptChar` by whether a match ends. -/
theorem cWriteTransparent : Obligations.CWriteTransparent := by
  intro s b hw htr hcount
  dsimp only
  rw [← V42Base.rollEscape_with]
  have htr' := (V42Base.acceptChar_transparent (p := s.cfg) b).trans ((V42Base.rollEscape_transparent b).trans htr)
  have hexec := exec_cWrite_of_two_le (b := b) hw
  rw [Comp.writeRaw_transparent htr] at hexec
  cases hended : ((s.c.base.rollEscape b).acceptChar s.cfg b).2 with
  | none =>
    rw [Comp.acceptChar_of_none hended] at hexec
    simp [hexec hcount]
  | some e =>
    rw [Comp.acceptChar_of_some hended, Comp.matchEnd_transparent htr'] at hexec
    simp [hexec hcount, Int.add_sub_assoc]

/-! ### Compressed mode -/

/-- R175: the scan stays in the arena. -/
theorem V42Base.scan_lt (hp : p.wf = true) (fuel : Nat) (hn : n < p.maxCodeWords) : x.scan p fuel n < p.maxCodeWords := by
  obtain ⟨-, h512, -⟩ := Params.wf_arena hp
  induction fuel generalizing n with
  | zero => exact hn
  | succ k ih =>
    have hnext : nextSlot p n < p.maxCodeWords := by
      unfold nextSlot
      split
      · exact (show Config.cwFirst < 512 by decide).trans_le h512
      · omega
    unfold V42Base.scan
    split
    · exact hnext
    · exact ih hnext

/-- R176: the next slot lies in the arena, whatever the nodes are. -/
theorem V42Base.acceptChar_nextCodeWord_lt (hp : p.wf = true) (h : x.nextCodeWord < p.maxCodeWords) (b : Octet) :
    (x.acceptChar p b).1.nextCodeWord < p.maxCodeWords := by
  have hend : ∀ i, (x.endMatch p i b).nextCodeWord < p.maxCodeWords := fun i => by
    unfold V42Base.endMatch
    split
    · exact V42Base.scan_lt hp _ h
    · exact h
  unfold V42Base.acceptChar
  split
  · exact h
  · split
    · exact h
    · exact hend _

/-- R22 (f), (g): the next slot and the match's code lie in the arena. -/
theorem V42Base.inv.codes_lt (h : x.inv p) :
    x.nextCodeWord < p.maxCodeWords ∧ ∀ i, x.curCode = some i → i < p.maxCodeWords := by
  obtain ⟨-, ⟨-, hfree⟩, -, hmatch⟩ := h
  obtain ⟨⟨-, hnext, -⟩, -⟩ := id hmatch
  refine ⟨hnext, fun i hi => ?_⟩
  obtain ⟨-, huse, -⟩ := (V42Base.matchInv_iff_of_some hi).mp hmatch
  by_contra hlt
  exact (V42Base.inUse_iff.mp huse).2 (V42Base.isFree_iff.mp (hfree i (.inr (Nat.le_of_not_lt hlt))))

/-- R176: `acceptChar` leaves the width, so that it leaves R22 (h). -/
theorem V42Base.acceptChar_widthInv (h : x.widthInv p) (b : Octet) : (x.acceptChar p b).1.widthInv p := by
  rw [V42Base.acceptChar_eq]
  exact h

/-- R193: the codewords read the width only. -/
theorem V42Base.stepsTo_congr {y z : V42Base} {next code k : Nat} {bits : List Bool}
    (h : x.codeWordSize = y.codeWordSize) (hx : x.stepsTo z next code k bits) : y.stepsTo z next code k bits := by
  rwa [V42Base.stepsTo, h] at hx

/-- R194: in compressed mode the end of a match is added to the accumulator, and the match is sent. -/
theorem Comp.matchEnd_sends (hp : p.wf = true) (htr : c.base.transparent = false) (hw : c.base.widthInv p)
    (hb : c.bitBuf < 2 ^ c.bitCnt) (hnext : c.base.nextCodeWord < p.maxCodeWords) {code : Nat}
    (hcode : code < p.maxCodeWords) (len : Nat) :
    ∃ k bits, c.base.stepsTo (c.matchEnd p code len).base c.base.nextCodeWord code k bits
      ∧ Comp.Sends { c with compressTest := c.compressTest + 8 * (len : Int) - (c.base.codeWordSize : Int) }
          (c.matchEnd p code len) bits := by
  obtain ⟨k, bits, hsteps, hsends⟩ := Comp.sends_code (code := code)
    (c := { c with compressTest := c.compressTest + 8 * (len : Int) - (c.base.codeWordSize : Int) }) hp hw hb hnext hcode
  unfold Comp.matchEnd
  rw [if_neg (by rw [htr]; exact Bool.false_ne_true)]
  exact ⟨k, bits, hsteps, hsends⟩

/-- Settles O42: where no match ends nothing is put out (`acceptChar_of_none`); where one ends it is sent
(`matchEnd_sends`). -/
theorem cWriteCompressed : Obligations.CWriteCompressed := by
  intro s b hw hp hinv htr hcount
  dsimp only
  rw [← V42Base.rollEscape_with]
  obtain ⟨hbase, -, hbuf, -⟩ := hinv
  obtain ⟨hnext, hcodes⟩ := hbase.codes_lt
  obtain ⟨hwidth, -⟩ := hbase
  have hx : (s.c.base.rollEscape b).curCode = s.c.base.curCode
      ∧ (s.c.base.rollEscape b).nextCodeWord = s.c.base.nextCodeWord ∧ (s.c.base.rollEscape b).widthInv s.cfg
      ∧ (s.c.base.rollEscape b).transparent = false := by
    rw [V42Base.rollEscape_eq]
    exact ⟨rfl, rfl, hwidth, htr⟩
  have hsize : (s.c.base.rollEscape b).codeWordSize = s.c.base.codeWordSize := V42Base.rollEscape_codeWordSize b
  have hexec := exec_cWrite_of_two_le (b := b) hw
  rw [Comp.writeRaw_compressed htr] at hexec
  generalize s.c.base.rollEscape b = x at *
  obtain ⟨hcur, hslot, hxwidth, hxtr⟩ := hx
  cases hended : (x.acceptChar s.cfg b).2 with
  | none =>
    rw [Comp.acceptChar_of_none hended] at hexec
    exact ⟨_, hexec hcount, rfl, fun _ => rfl, nofun⟩
  | some e =>
    obtain ⟨code, len⟩ := e
    have hcode : code < s.cfg.maxCodeWords := hcodes code (hcur ▸ V42Base.acceptChar_code hended)
    obtain ⟨k, bits, hsteps, hsends⟩ := Comp.matchEnd_sends (c := { s.c with base := (x.acceptChar s.cfg b).1 }) hp
      ((V42Base.acceptChar_transparent b).trans hxtr) (V42Base.acceptChar_widthInv hxwidth b) hbuf
      (V42Base.acceptChar_nextCodeWord_lt hp (hslot ▸ hnext) b) hcode len
    rw [Comp.acceptChar_of_some hended] at hexec
    dsimp only at hexec hsends
    generalize Comp.matchEnd s.cfg _ code len = e at *
    have hframe : ({ e with testCount := e.testCount - 1 } : Comp)
        = { e with base := (x.acceptChar s.cfg b).1.atWidthOf e.base, testCount := s.c.testCount - 1 } := by
      rw [← hsends.base, hsends.testCount]
    refine ⟨_, hexec (hsends.testCount ▸ hcount), congrArg (fun c => ({ s with c := c, result := .none } : State)) hframe,
      nofun, fun code' len' h => ?_⟩
    cases h
    have hwidth' := (V42Base.acceptChar_codeWordSize (p := s.cfg) b).trans hsize
    exact ⟨hwidth' ▸ hsends.compressTest, k, bits, V42Base.stepsTo_congr hwidth' hsteps, hsends.stream, hsends.queue⟩

end Sys2Proof.Machine
end

section
/-!
SUPPORT. The count of the mode test (44_compressor.md R192) beside the rest of C: no step reads it but the test itself, so that the
write that brings it to 0 handles its octet as any other.
-/

namespace Sys2Proof.Machine

variable {s : State} {p : Params} (c : Comp) (n : Nat)

/-! ### The count is not read -/

/-- C with `n` writes left of the test's period. -/
def Comp.counting (c : Comp) (n : Nat) : Comp := { c with testCount := n }

theorem Comp.counting_eq {c : Comp} {n : Nat} (h : c.testCount = n) : c.counting n = c := h ▸ rfl

@[simp] theorem Comp.drain_counting (fuel : Nat) :
    Comp.drain fuel (c.counting n) = (Comp.drain fuel c).counting n := by
  induction fuel generalizing c with
  | zero => rfl
  | succ k ih =>
    unfold Comp.drain
    rw [apply_ite (Comp.counting · n), ← ih]
    rfl

@[simp] theorem Comp.putCodeword_counting (w : Nat) : (c.counting n).putCodeword w = (c.putCodeword w).counting n :=
  Comp.drain_counting { c with bitBuf := c.bitBuf ||| (w <<< c.bitCnt), bitCnt := c.bitCnt + c.base.codeWordSize } n _

@[simp] theorem Comp.pad_counting : (c.counting n).pad = c.pad.counting n := by
  unfold Comp.pad
  rw [apply_ite (Comp.counting · n)]
  rfl

@[simp] theorem Comp.stepup_counting : (c.counting n).stepup p = (c.stepup p).counting n := by
  simp only [Comp.stepup, Comp.putCodeword_counting]
  rfl

@[simp] theorem Comp.stepups_counting (code fuel : Nat) :
    Comp.stepups p code fuel (c.counting n) = (Comp.stepups p code fuel c).counting n := by
  induction fuel generalizing c with
  | zero => rfl
  | succ k ih =>
    unfold Comp.stepups
    rw [apply_ite (Comp.counting · n), ← ih, ← Comp.stepup_counting]
    rfl

@[simp] theorem Comp.checkDictSize_counting (code : Nat) :
    (c.counting n).checkDictSize p code = (c.checkDictSize p code).counting n := Comp.stepups_counting c n _ _

/-- R194: the end of a match. -/
theorem Comp.matchEnd_counting (code len : Nat) :
    (c.counting n).matchEnd p code len = (c.matchEnd p code len).counting n := by
  have hsend : ∀ c : Comp, ((c.counting n).checkDictSize p code).putCodeword code
      = ((c.checkDictSize p code).putCodeword code).counting n := fun c => by simp
  unfold Comp.matchEnd
  rw [apply_ite (Comp.counting · n), ← hsend]
  rfl

/-- R195: the octet is handled beside the count. -/
theorem Comp.accept_counting (b : Octet) :
    ((c.counting n).writeRaw p b).acceptChar p b = ((c.writeRaw p b).acceptChar p b).counting n := by
  show ((c.writeRaw p b).counting n).acceptChar p b = _
  generalize c.writeRaw p b = d
  cases h : (d.base.acceptChar p b).2 with
  | none =>
    rw [Comp.acceptChar_of_none h, Comp.acceptChar_of_none (by exact h)]
    rfl
  | some e =>
    rw [Comp.acceptChar_of_some h, Comp.acceptChar_of_some (by exact h), ← Comp.matchEnd_counting]
    rfl

/-- R198: the flush. -/
theorem Comp.flushInternal_counting (enter : Bool) :
    (c.counting n).flushInternal p enter = (c.flushInternal p enter).counting n := by
  cases htr : c.base.transparent with
  | true => rw [Comp.flushInternal_transparent htr, Comp.flushInternal_transparent (by exact htr)]
  | false =>
    have hpending : (c.counting n).sendPending p = (c.sendPending p).counting n := by
      unfold Comp.sendPending
      rw [show (c.counting n).base = c.base from rfl]
      cases c.base.pendingCode <;> simp
    rw [Comp.flushInternal_compressed htr, Comp.flushInternal_compressed (by exact htr), hpending]
    unfold Comp.closeBlock
    rw [Comp.putCodeword_counting, Comp.pad_counting]
    rfl

/-- R196: a change of mode writes the count anew. -/
theorem Comp.changeMode_counting : (c.counting n).changeMode p = c.changeMode p := by
  unfold Comp.changeMode
  rw [Comp.flushInternal_counting]
  rfl

/-! ### The test -/

/-- R192: when the test changes the mode. -/
theorem Comp.modeTestFires_iff {c : Comp} :
    c.modeTestFires = true ↔
      (c.base.transparent = true ∧ 16 < c.compressTest) ∨ (c.base.transparent = false ∧ c.compressTest < -16) := by
  unfold Comp.modeTestFires
  cases c.base.transparent <;> exact decide_eq_true_iff.trans (by simp [Config.testGain, Config.testLoss])

/-- R195, R192: the test where the last write of a period is counted. -/
theorem Comp.modeTest_counting_one :
    (c.counting 1).modeTest p =
      if c.modeTestFires then c.changeMode p
      else { c with testCount := testPeriod c.base.transparent, compressTest := 0 } := by
  show (if (c.counting 0).modeTestFires then (c.counting 0).changeMode p else _) = _
  rw [Comp.changeMode_counting]
  rfl

theorem exec_cCmode (hw : s.written.c = true) :
    exec .cCmode s = .next ((s.setC (s.c.changeMode s.cfg)).answer .none) := whenWritten_of_written hw _

/-- Settles O43: the octet is handled beside the count (`accept_counting`), and the test is the one of
`modeTest_counting_one`. -/
theorem cWriteModeTest : Obligations.CWriteModeTest := by
  intro s b hw hcount
  have hlast : s.c.write s.cfg b = (((s.c.writeRaw s.cfg b).acceptChar s.cfg b).counting 1).modeTest s.cfg := by
    rw [← Comp.accept_counting, Comp.counting_eq hcount]
    rfl
  have hbefore : (s.c.counting 2).write s.cfg b = ((s.c.writeRaw s.cfg b).acceptChar s.cfg b).counting 1 := by
    rw [Comp.write, Comp.accept_counting]
    rfl
  rw [Comp.modeTest_counting_one] at hlast
  have hexec := exec_cWrite hw b
  generalize (s.c.writeRaw s.cfg b).acceptChar s.cfg b = d at hlast hbefore
  refine ⟨(s.setC (d.counting 1)).answer .none, ?_, fun hfires => ?_, fun hkeeps => ?_⟩
  · exact (exec_cWrite (s := s.setC (s.c.counting 2)) hw b).trans (by rw [← hbefore]; rfl)
  · rw [if_pos (Comp.modeTestFires_iff (c := d).mpr hfires), ← Comp.changeMode_counting d 1] at hlast
    rw [hexec, hlast]
    exact (exec_cCmode (s := (s.setC (d.counting 1)).answer .none) hw).symm
  · rw [if_neg (fun hfires => hkeeps (Comp.modeTestFires_iff (c := d).mp hfires))] at hlast
    rw [hexec, hlast]
    rfl

end Sys2Proof.Machine
end

section
/-!
SUPPORT. C.CMODE and C.FLUSH (44_compressor.md R196 to R198, R200): the pending match, and the codeword and the padding that end a
block.
-/

namespace Sys2Proof.Machine

variable {p : Params} {c : Comp}

/-! ### The end of a block -/

/-- R191: the pending bits that are no whole octet are left. -/
theorem Comp.drain_bitCnt (fuel : Nat) (c : Comp) (hf : c.bitCnt ≤ fuel) : (Comp.drain fuel c).bitCnt = c.bitCnt % 8 := by
  induction fuel generalizing c with
  | zero => simp only [Comp.drain]; omega
  | succ k ih =>
    unfold Comp.drain
    split
    · rw [ih _ (by dsimp only; omega)]
      exact (Nat.mod_eq_sub_mod ‹_›).symm
    · omega

/-- R191: how many bits a codeword leaves pending is not of its value. -/
theorem Comp.putCodeword_bitCnt (c : Comp) (w : Nat) :
    (c.putCodeword w).bitCnt = (c.bitCnt + c.base.codeWordSize) % 8 := Comp.drain_bitCnt _ _ le_rfl

/-- The 0s that complete the octet behind a codeword (R200). -/
def Comp.padding (c : Comp) : Nat := (8 - (c.bitCnt + c.base.codeWordSize) % 8) % 8

/-- R198, R200: the control codeword, then 0s up to an octet. -/
theorem Comp.closeBlock_streamBits (hb : c.bitBuf < 2 ^ c.bitCnt) {w : Nat} (hw : w < 2 ^ c.base.codeWordSize) :
    (c.closeBlock w).streamBits
      = c.streamBits ++ lowBits c.base.codeWordSize w ++ List.replicate c.padding false
    ∧ c.closeBlock w = { c with
        base := { c.base with modeTransition := true }, bitBuf := 0, bitCnt := 0, out := (c.closeBlock w).out } := by
  obtain ⟨hput, hcnt, hheld, heq⟩ := Comp.putCodeword_streamBits c w hb hw
  obtain ⟨hpad, hzero⟩ := Comp.pad_streamBits (c.putCodeword w) hcnt hheld
  rw [hput, Comp.putCodeword_bitCnt] at hpad
  refine ⟨hpad, ?_⟩
  unfold Comp.closeBlock
  rw [hzero, heq]

/-! ### The pending match -/

/-- R198: there is no match, or it was sent before. -/
theorem V42Base.pendingCode_eq_none {x : V42Base} (h : x.curCode = none ∨ x.modeTransition = true) :
    x.pendingCode = none := by
  unfold V42Base.pendingCode
  rcases h with h | h <;> simp [h]

/-- R198: there is a match to be sent. -/
theorem V42Base.pendingCode_eq_some_iff {x : V42Base} {i : Nat} :
    x.pendingCode = some i ↔ x.curCode = some i ∧ x.modeTransition = false := by
  unfold V42Base.pendingCode
  cases x.modeTransition <;> simp

/-- R198: the codeword of the match is sent with the STEPUPs it needs, unless there is none or it was sent before. -/
theorem Comp.sendPending_sends (hp : p.wf = true) (hc : c.inv p) :
    ∃ k bits, c.Sends (c.sendPending p) bits ∧ 9 ≤ (c.sendPending p).base.codeWordSize
      ∧ (c.base.pendingCode = none → bits = [] ∧ c.sendPending p = c)
      ∧ ∀ i, c.base.pendingCode = some i → c.base.stepsTo (c.sendPending p).base c.base.nextCodeWord i k bits := by
  obtain ⟨hbase, -, hb, -⟩ := hc
  obtain ⟨hnext, hcodes⟩ := hbase.codes_lt
  obtain ⟨hw, -⟩ := hbase
  obtain ⟨h9, -, -⟩ := id hw
  unfold Comp.sendPending
  cases hpend : c.base.pendingCode with
  | none => exact ⟨0, [], Comp.Sends.refl hb, h9, fun _ => ⟨rfl, rfl⟩, nofun⟩
  | some i =>
    obtain ⟨hcur, -⟩ := V42Base.pendingCode_eq_some_iff.mp hpend
    obtain ⟨k, bits, hsteps, hsends⟩ := Comp.sends_code hp hw hb hnext (hcodes i hcur)
    obtain ⟨-, -, hsize, -⟩ := id hsteps
    refine ⟨k, bits, hsends, hsize ▸ h9.trans (Nat.le_add_right _ k), nofun, fun j hj => ?_⟩
    cases hj
    exact hsteps

/-- R198: what C.FLUSH and C.CMODE put out in compressed mode and leave of C, but for the mode and the count: the match, if one
is pending, the control codeword `w`, and 0s. -/
theorem Comp.closeBlock_sendPending (hp : p.wf = true) (hc : c.inv p) :
    ∃ k bits pad, pad < 8
      ∧ (c.base.pendingCode = none → bits = [] ∧ c.sendPending p = c)
      ∧ (∀ i, c.base.pendingCode = some i → c.base.stepsTo (c.sendPending p).base c.base.nextCodeWord i k bits)
      ∧ ∀ w < 2,
        ((c.sendPending p).closeBlock w).streamBits
          = c.streamBits ++ bits ++ lowBits (c.sendPending p).base.codeWordSize w ++ List.replicate pad false
        ∧ (c.sendPending p).closeBlock w = { c with
            base := { c.base.atWidthOf (c.sendPending p).base with modeTransition := true }
            bitBuf := 0, bitCnt := 0, out := ((c.sendPending p).closeBlock w).out } := by
  obtain ⟨k, bits, hsends, h9, hnone, hsome⟩ := Comp.sendPending_sends hp hc
  refine ⟨k, bits, (c.sendPending p).padding, Nat.mod_lt _ (by decide), hnone, hsome, fun w hw => ?_⟩
  generalize c.sendPending p = d at *
  have hfits : w < 2 ^ d.base.codeWordSize :=
    hw.trans ((show 2 < 2 ^ 9 by decide).trans_le (Nat.pow_le_pow_right two_pos h9))
  obtain ⟨hbits, heq⟩ := Comp.closeBlock_streamBits hsends.held hfits
  rw [hsends.stream] at hbits
  refine ⟨hbits, heq.trans ?_⟩
  rw [← hsends.base, ← hsends.compressTest, ← hsends.testCount]

/-! ### C.CMODE -/

/-- R196: from transparent mode. -/
theorem Comp.changeMode_transparent (htr : c.base.transparent = true) :
    c.changeMode p = { c with
      base := { c.base with transparent := false, modeTransition := true }
      testCount := 256, compressTest := 0, out := c.out ++ [c.base.escapeCode, p.ecm] } := by
  unfold Comp.changeMode
  rw [if_pos htr]
  rfl

/-- R196: from compressed mode, behind the block. -/
theorem Comp.changeMode_compressed (htr : c.base.transparent = false) :
    c.changeMode p = { (c.sendPending p).closeBlock Config.cwEtm with
      base := { ((c.sendPending p).closeBlock Config.cwEtm).base with transparent := true, modeTransition := true }
      testCount := 64, compressTest := 0 } := by
  unfold Comp.changeMode
  rw [htr, if_neg Bool.false_ne_true, Comp.flushInternal_compressed htr]
  rfl

/-- Settles O44: in compressed mode the block ends behind the pending match (`closeBlock_sendPending`), with FLUSH in C.FLUSH
and with ETM in C.CMODE. -/
theorem cmodeAndFlush : Obligations.CmodeAndFlush := by
  intro s hw hp hinv
  have hflush := exec_cFlush hw
  have hcmode := exec_cCmode hw
  refine ⟨fun htr => ?_, fun htr => ?_⟩
  · rw [Comp.flush, Comp.flushInternal_transparent htr] at hflush
    rw [Comp.changeMode_transparent htr] at hcmode
    exact ⟨hflush, hcmode⟩
  · rw [Comp.flush, Comp.flushInternal_compressed htr] at hflush
    rw [Comp.changeMode_compressed htr] at hcmode
    obtain ⟨k, bits, pad, hpad, hnone, hsome, hblock⟩ := Comp.closeBlock_sendPending hp hinv
    obtain ⟨hfbits, hfeq⟩ := hblock (blockEnd false) (blockEnd_lt false)
    obtain ⟨hebits, heeq⟩ := hblock Config.cwEtm (by decide)
    rw [hfeq] at hflush hfbits
    rw [heeq] at hcmode hebits
    refine ⟨_, _, k, bits, pad, hflush, hcmode, ?_, hpad, hfbits, hebits, rfl, rfl⟩
    cases hcur : s.c.base.curCode with
    | none =>
      obtain ⟨hbits, hsame⟩ := hnone (V42Base.pendingCode_eq_none (.inl hcur))
      rw [hsame]
      exact ⟨hbits, rfl, rfl⟩
    | some i =>
      cases htransition : s.c.base.modeTransition with
      | true =>
        obtain ⟨hbits, hsame⟩ := hnone (V42Base.pendingCode_eq_none (.inr htransition))
        rw [hsame]
        exact ⟨hbits, rfl, rfl⟩
      | false => exact hsome i (V42Base.pendingCode_eq_some_iff.mpr ⟨hcur, htransition⟩)

end Sys2Proof.Machine
end

section
/-!
SUPPORT. Latched faults (45_decompressor.md R223, 60_exceptions.md R233, R235): whatever gives D octets is shut out by D's fault,
under L too, and all that L does is shut out by L's.
-/

namespace Sys2Proof.Machine

variable {i : Instr} {s : State} {e : Fault}

/-! ### D's fault -/

/-- R150, R233: with a fault latched in D, L's calls of D take at most what D has put out. -/
theorem Decomp.driven_fault {p : Params} {d k : Decomp} (hf : d.fault = some e)
    (hk : Relation.ReflTransGen (Decomp.Driven p) d k) : k.fault = some e := by
  induction hk with
  | refl => exact hf
  | tail _ hstep ih =>
    rcases hstep.2 with ⟨b, rfl⟩ | rfl
    · rwa [Decomp.write_of_fault (Option.ne_none_iff_exists'.mpr ⟨e, ih⟩)]
    · exact ih

/-- R233: what may give D octets is refused, and D.POP takes from the queue alone. -/
theorem exec_d_fault (hi : unitOf i = .d) (hreset : i ≠ .dReset) (hf : s.d.fault = some e) :
    AllNext (·.d.fault = some e) (exec i s) := by
  have hr : ∀ r, (s.answer r).d.fault = some e := fun _ => hf
  have hshut : ∀ d, AllNext (·.d.fault = some e) (dInput s d) := fun _ =>
    allNext_dInput hr fun hnone => absurd (hnone.symm.trans hf) nofun
  cases i with
  | dReset => exact absurd rfl hreset
  | dPop => exact allNext_whenWritten hr (allNext_popQueue hr fun _ _ => hf)
  | dWrite | tData | ecm | eid | tReset | tBadcmd | cwEtm | cwFlush | cwStepup | cwData => exact hshut _
  | _ => cases hi

/-- R223, R235: D's own operations by `exec_d_fault`, L's by what L drives D with, all others by their frame. -/
theorem exec_keeps_d_fault (hd : i ≠ .dReset) (hl : i ≠ .lReset) (hf : s.d.fault = some e) :
    AllNext (·.d.fault = some e) (exec i s) := by
  intro t ht
  cases hi : unitOf i with
  | v => rwa [exec_onlyV hi t ht]
  | h => rwa [exec_onlyH hi t ht]
  | c => rwa [exec_onlyC hi t ht]
  | d => exact exec_d_fault hi hd hf t ht
  | l => exact Decomp.driven_fault hf (exec_lKeeps hi hl t ht).decomp

/-! ### L's fault -/

/-- R126, R144, log 9, log 11: every operation of L but its RESET stands behind the pumps' refusals. -/
theorem exec_eq_lPump (hi : unitOf i = .l) (hreset : i ≠ .lReset) (s : State) : ∃ k, exec i s = lPump s k := by
  cases i with
  | lReset => exact absurd rfl hreset
  | lRxbit | lTxbit | v14Char | odp | adp | flag | abort | frame | iFrame | rr | rnr | rej | srej | sOther | sabme | disc
  | ua | xid | uOther | xidFi | xidGroupPublic | xidGroupPrivate | xidGroupUserdata | xidParamTxsize | xidParamWindow
  | xidParamCompreq => exact ⟨_, rfl⟩
  | _ => cases hi

/-- R233: behind the pumps' refusals nothing happens while L's fault is latched. -/
theorem lPump_l_eq_of_fault (hf : s.l.fault ≠ none) (k : Out) : AllNext (·.l = s.l) (lPump s k) := by
  intro t ht
  rcases lPump_next_iff.mp ht with ⟨-, rfl⟩ | ⟨-, -, rfl⟩ | ⟨-, hnone, -⟩
  · rfl
  · rfl
  · exact absurd hnone hf

/-- R233, R235: L's own operations are refused, and no other operation writes L's registers. -/
theorem exec_keeps_l_fault (hreset : i ≠ .lReset) (hf : s.l.fault = some e) :
    AllNext (·.l.fault = some e) (exec i s) := by
  intro t ht
  have hl : t.l = s.l := by
    by_cases hi : unitOf i = .l
    · obtain ⟨k, hk⟩ := exec_eq_lPump hi hreset s
      exact lPump_l_eq_of_fault (Option.ne_none_iff_exists'.mpr ⟨e, hf⟩) k t (hk ▸ ht)
    · exact exec_l_eq hi t ht
  rwa [hl]

/-- Settles O52: `exec_keeps_d_fault` for D's latch, `exec_keeps_l_fault` for L's. -/
theorem onlyResetClearsFaults : Obligations.OnlyResetClearsFaults := fun _ _ t _ ht =>
  ⟨fun hf hd hl => exec_keeps_d_fault hd hl hf t ht, fun hf hl => exec_keeps_l_fault hl hf t ht⟩

end Sys2Proof.Machine
end

section
/-!
SUPPORT. The event trace under every procedure and every instruction (60_exceptions.md R231, 10_state.md R24): whatever was
logged before, an operation does the same and logs the same behind it.
-/

namespace Sys2Proof.Machine

/-- The state with the events `es` before its trace (R231). -/
def State.prependTrace (es : List Event) (s : State) : State := { s with trace := es ++ s.trace }

/-- The outcome with the events `es` before the trace of its next state. -/
def prependOut (es : List Event) : Out → Out
  | .next t => .next (t.prependTrace es)
  | .fault f => .fault f
  | .refused r => .refused r

section Trace

variable (s : State) (es : List Event)

/-! ### The updates of State -/

/-- A choice that does not read the trace, between states that do not read it. -/
theorem State.ite_prependTrace {es : List Event} {P Q : Prop} [Decidable P] [Decidable Q] {t t' u u' : State}
    (hPQ : P ↔ Q) (ht : t' = t.prependTrace es) (hu : u' = u.prependTrace es) :
    (if P then t' else u') = (if Q then t else u).prependTrace es := by
  subst ht hu
  rw [apply_ite (State.prependTrace es)]
  exact if_congr hPQ rfl rfl

@[simp] theorem State.prependTrace_v : (s.prependTrace es).v = s.v := rfl
@[simp] theorem State.prependTrace_h : (s.prependTrace es).h = s.h := rfl
@[simp] theorem State.prependTrace_l : (s.prependTrace es).l = s.l := rfl
@[simp] theorem State.prependTrace_c : (s.prependTrace es).c = s.c := rfl
@[simp] theorem State.prependTrace_cfg : (s.prependTrace es).cfg = s.cfg := rfl
@[simp] theorem State.prependTrace_source : (s.prependTrace es).source = s.source := rfl

@[simp] theorem State.prependTrace_setV (x : V14) : (s.prependTrace es).setV x = (s.setV x).prependTrace es := rfl
@[simp] theorem State.prependTrace_setH (x : Hdlc) : (s.prependTrace es).setH x = (s.setH x).prependTrace es := rfl
@[simp] theorem State.prependTrace_setL (x : Lapm) : (s.prependTrace es).setL x = (s.setL x).prependTrace es := rfl
@[simp] theorem State.prependTrace_setC (x : Comp) : (s.prependTrace es).setC x = (s.setC x).prependTrace es := rfl
@[simp] theorem State.prependTrace_setSource (octets : List Octet) :
    (s.prependTrace es).setSource octets = (s.setSource octets).prependTrace es := rfl

/-- R231: events are logged behind what was logged before. -/
@[simp] theorem State.prependTrace_log (fs : List Event) : (s.prependTrace es).log fs = (s.log fs).prependTrace es := by
  simp only [State.prependTrace, State.log, List.append_assoc]

/-! ### Sending frames -/

@[simp] theorem State.prependTrace_lSend (f : List Octet) (now : Nat) :
    (s.prependTrace es).lSend f now = (s.lSend f now).prependTrace es := by
  simp only [State.lSend, State.prependTrace_h, State.prependTrace_l, State.prependTrace_setH, State.prependTrace_setL]

theorem State.prependTrace_gather (k : Nat) :
    (s.prependTrace es).gather k = ((s.gather k).1, (s.gather k).2.prependTrace es) := by
  by_cases hon : s.cfg.compEnabled = true
  · simp [State.gather, hon]
  · simp [State.gather, hon]

theorem State.prependTrace_sendIFrame (now : Nat) :
    (s.prependTrace es).sendIFrame now = (s.sendIFrame now).prependTrace es := by
  simp [State.sendIFrame, State.prependTrace_gather]

/-! ### Acknowledgement and retransmission -/

theorem State.prependTrace_ackIFrame (nr : SeqNum) :
    (s.prependTrace es).ackIFrame nr = (s.ackIFrame nr).prependTrace es := by
  unfold State.ackIFrame
  exact State.ite_prependTrace Iff.rfl rfl (s.prependTrace_log es _)

theorem State.prependTrace_resend (q : SeqNum) (now : Nat) :
    (s.prependTrace es).resend q now = (s.resend q now).prependTrace es := by
  simp only [State.resend, State.prependTrace_l]
  split
  · rfl
  · simp

theorem State.prependTrace_resendFrom (now fuel : Nat) (q : SeqNum) :
    State.resendFrom now fuel q (s.prependTrace es) = (State.resendFrom now fuel q s).prependTrace es := by
  induction fuel generalizing q s with
  | zero => rfl
  | succ n ih =>
    unfold State.resendFrom
    exact State.ite_prependTrace Iff.rfl rfl (by rw [State.prependTrace_resend, ih])

theorem State.prependTrace_handleReject (nr : SeqNum) (now : Nat) :
    (s.prependTrace es).handleReject nr now = (s.handleReject nr now).prependTrace es := by
  unfold State.handleReject
  rw [State.prependTrace_ackIFrame]
  exact State.ite_prependTrace Iff.rfl (State.prependTrace_resendFrom _ es _ _ _) rfl

/-! ### Received frames -/

theorem State.prependTrace_sinkWrites (octets : List Octet) :
    octets.foldl State.sinkWrite (s.prependTrace es) = (octets.foldl State.sinkWrite s).prependTrace es := by
  induction octets generalizing s with
  | nil => rfl
  | cons o os ih => exact ih (s.sinkWrite o)

theorem State.prependTrace_deliver (x : Octet) : (s.prependTrace es).deliver x = (s.deliver x).prependTrace es := by
  have hsink := State.prependTrace_sinkWrites (s.setD { s.d.write s.cfg x with out := [] }) es
  unfold State.deliver
  exact State.ite_prependTrace Iff.rfl (State.ite_prependTrace Iff.rfl rfl (hsink _)) rfl

theorem State.prependTrace_deliverAll (xs : List Octet) :
    (s.prependTrace es).deliverAll xs = (s.deliverAll xs).prependTrace es := by
  induction xs generalizing s with
  | nil => rfl
  | cons x xs ih =>
    unfold State.deliverAll
    rw [State.prependTrace_deliver]
    exact State.ite_prependTrace Iff.rfl rfl (ih _)

theorem State.prependTrace_replyRr (addr : Octet) (p : Bool) (now : Nat) :
    (s.prependTrace es).replyRr addr p now = (s.replyRr addr p now).prependTrace es := by
  unfold State.replyRr
  exact State.ite_prependTrace Iff.rfl (s.prependTrace_lSend es _ now) rfl

theorem State.prependTrace_handleIFrame (f : List Octet) (now : Nat) :
    (s.prependTrace es).handleIFrame f now = (s.handleIFrame f now).prependTrace es := by
  unfold State.handleIFrame
  dsimp only
  rw [State.prependTrace_ackIFrame]
  generalize s.ackIFrame (seqField (f.getD 2 0)) = a
  rw [State.prependTrace_l, State.prependTrace_setL, State.prependTrace_deliverAll]
  generalize State.deliverAll _ _ = t
  exact State.ite_prependTrace Iff.rfl (a.prependTrace_lSend es _ now)
    (State.ite_prependTrace Iff.rfl rfl (t.prependTrace_replyRr es _ _ now))

theorem State.prependTrace_handleSabme (addr : Octet) (pf : Bool) (now : Nat) :
    (s.prependTrace es).handleSabme addr pf now = (s.handleSabme addr pf now).prependTrace es := by
  simp [State.handleSabme]

theorem State.prependTrace_handleDisc (addr : Octet) (pf : Bool) (now : Nat) :
    (s.prependTrace es).handleDisc addr pf now = (s.handleDisc addr pf now).prependTrace es := by
  simp [State.handleDisc]

theorem State.prependTrace_handleXid (f : List Octet) (now : Nat) :
    (s.prependTrace es).handleXid f now = (s.handleXid f now).prependTrace es := by
  unfold State.handleXid
  split
  · exact s.prependTrace_log es _
  · simp

theorem State.prependTrace_handleS (c : Octet) (nr : SeqNum) (now : Nat) :
    (s.prependTrace es).handleS c nr now = (s.handleS c nr now).prependTrace es := by
  unfold State.handleS
  rw [State.prependTrace_ackIFrame, State.prependTrace_handleReject, State.prependTrace_log]
  exact State.ite_prependTrace Iff.rfl rfl
    (State.ite_prependTrace Iff.rfl rfl (State.ite_prependTrace Iff.rfl rfl rfl))

theorem State.prependTrace_handleU (f : List Octet) (now : Nat) :
    (s.prependTrace es).handleU f now = (s.handleU f now).prependTrace es := by
  unfold State.handleU
  dsimp only
  rw [State.prependTrace_handleSabme, State.prependTrace_handleDisc, State.prependTrace_handleXid, State.prependTrace_log]
  exact State.ite_prependTrace Iff.rfl rfl
    (State.ite_prependTrace Iff.rfl rfl (State.ite_prependTrace Iff.rfl rfl rfl))

/-- R132: a frame is dropped, logged, or handled by its class. -/
theorem State.prependTrace_handleFrame (f : List Octet) (now : Nat) :
    (s.prependTrace es).handleFrame f now = (s.handleFrame f now).prependTrace es := by
  simp only [State.handleFrame, State.prependTrace_log, State.prependTrace_handleIFrame, State.prependTrace_handleS,
    State.prependTrace_handleU]
  split_ifs <;> rfl

/-! ### Detection -/

theorem State.prependTrace_checkDetectionTimer (now : Nat) :
    (s.prependTrace es).checkDetectionTimer now = (s.checkDetectionTimer now).prependTrace es := by
  unfold State.checkDetectionTimer
  exact State.ite_prependTrace Iff.rfl rfl rfl

theorem State.prependTrace_firstChar (c : Octet) (now : Nat) :
    (s.prependTrace es).firstChar c now = (s.firstChar c now).prependTrace es := by
  unfold State.firstChar
  exact State.ite_prependTrace Iff.rfl rfl rfl

theorem State.prependTrace_sendAdp : (s.prependTrace es).sendAdp = s.sendAdp.prependTrace es := by
  simp [State.sendAdp]

theorem State.prependTrace_nextChar (c : Octet) (n : Nat) :
    (s.prependTrace es).nextChar c n = (s.nextChar c n).prependTrace es := by
  unfold State.nextChar
  exact State.ite_prependTrace Iff.rfl (State.prependTrace_sendAdp (s.setL (s.l.countOdp c n)) es) rfl

/-- R84: V logs behind what was logged before, and the character that completes is the same. -/
theorem State.prependTrace_vBit (b : Bool) :
    (s.prependTrace es).vBit b = ((s.vBit b).1.prependTrace es, (s.vBit b).2) := by
  simp [State.vBit]

theorem State.prependTrace_detectBit (b : Bool) (now : Nat) :
    (s.prependTrace es).detectBit b now = (s.detectBit b now).prependTrace es := by
  simp only [State.detectBit, State.prependTrace_vBit]
  generalize s.vBit b = o
  obtain ⟨t, char⟩ := o
  cases char with
  | none => rfl
  | some c =>
    simp only [State.prependTrace_v, State.prependTrace_setV]
    exact State.ite_prependTrace Iff.rfl (State.prependTrace_firstChar _ es c now) (State.prependTrace_nextChar _ es c _)

theorem State.prependTrace_passBit (b : Bool) : (s.prependTrace es).passBit b = (s.passBit b).prependTrace es := by
  simp only [State.passBit, State.prependTrace_vBit]
  generalize s.vBit b = o
  obtain ⟨t, char⟩ := o
  cases char with
  | none | some => rfl

/-! ### The receive pump -/

theorem State.prependTrace_onHdlc (r : HdlcResult) (now : Nat) :
    (s.prependTrace es).onHdlc r now = (s.onHdlc r now).prependTrace es := by
  simp only [State.onHdlc, State.prependTrace_l]
  cases s.l.phase with
  | none | detection =>
    cases r with
    | frame | abort | none => rfl
  | establish | connected =>
    cases r with
    | frame f => exact s.prependTrace_handleFrame es f now
    | abort => exact s.prependTrace_log es _
    | none => rfl
  | v14 | release => rfl

theorem State.prependTrace_hBit (b : Bool) (now : Nat) :
    (s.prependTrace es).hBit b now = (s.hBit b now).prependTrace es :=
  State.prependTrace_onHdlc (s.setH (s.h.rxBit b).1) es _ now

/-- R126: where a received bit goes, by the phase. -/
theorem State.prependTrace_lRxBit (b : Bool) (now : Nat) :
    (s.prependTrace es).lRxBit b now = (s.lRxBit b now).prependTrace es := by
  simp only [State.lRxBit, State.prependTrace_checkDetectionTimer]
  generalize s.checkDetectionTimer now = a
  simp only [State.prependTrace_l]
  cases a.l.phase with
  | none | detection =>
    exact State.ite_prependTrace Iff.rfl (a.prependTrace_hBit es b now) (a.prependTrace_detectBit es b now)
  | v14 => exact a.prependTrace_passBit es b
  | establish | connected => exact a.prependTrace_hBit es b now
  | release => rfl

theorem State.prependTrace_lRxBits (now : Nat) (bits : List Bool) :
    (s.prependTrace es).lRxBits now bits = (s.lRxBits now bits).prependTrace es := by
  induction bits generalizing s with
  | nil => rfl
  | cons b bs ih =>
    unfold State.lRxBits
    rw [State.prependTrace_lRxBit]
    exact State.ite_prependTrace Iff.rfl rfl (ih _)

theorem State.prependTrace_lFrame (f : List Octet) (now : Nat) :
    (s.prependTrace es).lFrame f now = (s.lFrame f now).prependTrace es := by
  unfold State.lFrame
  rw [State.prependTrace_checkDetectionTimer]
  exact State.ite_prependTrace Iff.rfl (State.prependTrace_onHdlc _ es _ now) rfl

/-! ### The transmit pump -/

theorem State.prependTrace_popV : (s.prependTrace es).popV = s.popV.prependTrace es := by
  simp [State.popV]

theorem State.prependTrace_popH : (s.prependTrace es).popH = s.popH.prependTrace es := by
  simp [State.popH]

theorem State.prependTrace_refillIdle : (s.prependTrace es).refillIdle = s.refillIdle.prependTrace es := by
  unfold State.refillIdle
  exact State.ite_prependTrace Iff.rfl (s.prependTrace_setV es _) rfl

theorem State.prependTrace_refillV : (s.prependTrace es).refillV = s.refillV.prependTrace es := by
  simp only [State.refillV, State.prependTrace_source]
  cases s.source with
  | nil => exact State.ite_prependTrace Iff.rfl (s.prependTrace_setV es _) rfl
  | cons b rest => exact State.ite_prependTrace Iff.rfl (State.prependTrace_setV (s.setSource rest) es _) rfl

theorem State.prependTrace_refillH (now : Nat) : (s.prependTrace es).refillH now = (s.refillH now).prependTrace es := by
  unfold State.refillH
  rw [State.prependTrace_sendIFrame, State.prependTrace_lSend]
  exact State.ite_prependTrace Iff.rfl
    (State.ite_prependTrace Iff.rfl rfl (State.ite_prependTrace Iff.rfl rfl (s.prependTrace_setH es _))) rfl

theorem State.prependTrace_refillRelease : (s.prependTrace es).refillRelease = s.refillRelease.prependTrace es := by
  unfold State.refillRelease
  exact State.ite_prependTrace Iff.rfl (s.prependTrace_setH es _) rfl

/-- R144: where a bit to send comes from, by the phase; the bit is the same. -/
theorem State.prependTrace_lTxBit (now : Nat) :
    (s.prependTrace es).lTxBit now = ((s.lTxBit now).1.prependTrace es, (s.lTxBit now).2) := by
  simp only [State.lTxBit, State.prependTrace_checkDetectionTimer]
  generalize s.checkDetectionTimer now = a
  simp only [State.prependTrace_l]
  cases a.l.phase with
  | none | detection => simp [State.prependTrace_refillIdle, State.prependTrace_popV]
  | v14 => simp [State.prependTrace_refillV, State.prependTrace_popV]
  | establish | connected => simp [State.prependTrace_refillH, State.prependTrace_popH]
  | release =>
    simp only [State.prependTrace_refillRelease, State.prependTrace_h]
    split
    · rfl
    · simp [State.prependTrace_popH]

/-! ### Outcomes -/

variable {s es}

theorem whenWritten_prependTrace {w : Bool} {k k' : Out} (hk : k' = prependOut es k) :
    whenWritten w (s.prependTrace es) k' = prependOut es (whenWritten w s k) := by
  cases w with
  | true => exact hk
  | false => rfl

theorem whenNoFault_prependTrace {f : Option Fault} {k k' : Out} (hk : k' = prependOut es k) :
    whenNoFault f (s.prependTrace es) k' = prependOut es (whenNoFault f s k) := by
  cases f with
  | none => exact hk
  | some e => rfl

theorem done_prependTrace {t t' : State} (ht : t' = t.prependTrace es) (r : Result) :
    done t' r = prependOut es (done t r) := by
  subst ht
  rfl

theorem popQueue_prependTrace {put put' : List Octet → State} (q : List Octet)
    (hput : ∀ rest, put' rest = (put rest).prependTrace es) :
    popQueue q (s.prependTrace es) put' = prependOut es (popQueue q s put) := by
  cases q with
  | nil => rfl
  | cons b rest => exact done_prependTrace (hput rest) _

theorem dInput_prependTrace (d : Decomp) : dInput (s.prependTrace es) d = prependOut es (dInput s d) :=
  whenWritten_prependTrace (whenNoFault_prependTrace rfl)

theorem lPump_prependTrace {k k' : Out} (hk : k' = prependOut es k) :
    lPump (s.prependTrace es) k' = prependOut es (lPump s k) :=
  whenWritten_prependTrace (whenNoFault_prependTrace hk)

theorem doneL_prependTrace {t t' : State} (ht : t' = t.prependTrace es) : doneL t' = prependOut es (doneL t) := by
  subst ht
  rfl

theorem lineArrives_prependTrace (bits : List Bool) (now : Nat) :
    lineArrives bits now (s.prependTrace es) = prependOut es (lineArrives bits now s) :=
  lPump_prependTrace (doneL_prependTrace (s.prependTrace_lRxBits es now bits))

theorem frameArrives_prependTrace (f : List Octet) (now : Nat) :
    frameArrives f now (s.prependTrace es) = prependOut es (frameArrives f now s) :=
  lPump_prependTrace (doneL_prependTrace (s.prependTrace_lFrame es f now))

/-! ### The instructions -/

variable (s es)

/-- The 58 rows by the shape of their meaning, none of which reads the trace. -/
theorem exec_prependTrace (i : Instr) : exec i (s.prependTrace es) = prependOut es (exec i s) := by
  cases i with
  | v14Setsb n =>
    refine whenWritten_prependTrace ?_
    split <;> rfl
  | v14Tx | v14Flush | v14Rsb => exact whenWritten_prependTrace (done_prependTrace (s.prependTrace_setV es _) _)
  | hSendframe | hSendflag => exact whenWritten_prependTrace (done_prependTrace (s.prependTrace_setH es _) _)
  | cWrite | cCmode | cFlush => exact whenWritten_prependTrace (done_prependTrace (s.prependTrace_setC es _) _)
  | hCrc16 => exact whenWritten_prependTrace rfl
  | v14Rx b =>
    exact whenWritten_prependTrace (done_prependTrace (State.prependTrace_log (s.setV (s.v.rx b).v) es _) _)
  | v14Rxbit b =>
    exact whenWritten_prependTrace (done_prependTrace (State.prependTrace_log (s.setV (s.v.rxBit b).v) es _) _)
  | v14Pop | hPop | cPop | dPop =>
    refine whenWritten_prependTrace (popQueue_prependTrace _ fun rest => ?_)
    rfl
  | v14Reset | hReset | lReset | cReset | dReset => rfl
  | hRxbit b =>
    refine whenWritten_prependTrace ?_
    rw [State.prependTrace_h]
    generalize s.h.rxBit b = o
    obtain ⟨h, r⟩ := o
    cases r with
    | none | frame => rfl
    | abort => exact done_prependTrace (State.prependTrace_log (s.setH h) es _) _
  | lRxbit b now => exact lPump_prependTrace (doneL_prependTrace (s.prependTrace_lRxBit es b now))
  | lTxbit now =>
    refine lPump_prependTrace ?_
    rw [State.prependTrace_lTxBit]
    exact done_prependTrace rfl _
  | v14Char | odp | adp | flag | abort | frame => exact lineArrives_prependTrace _ _
  | iFrame | rr | rnr | rej | srej | sOther | sabme | disc | ua | xid | uOther | xidFi | xidGroupPublic
  | xidGroupPrivate | xidGroupUserdata | xidParamTxsize | xidParamWindow | xidParamCompreq =>
    exact frameArrives_prependTrace _ _
  | dWrite | tData | ecm | eid | tReset | tBadcmd | cwEtm | cwFlush | cwStepup | cwData =>
    exact dInput_prependTrace _

end Trace

/-- Settles O53: the outcome of `exec_prependTrace`, where it is a next state. -/
theorem traceIsNeverRead : Obligations.TraceIsNeverRead := fun i s _ es ht =>
  (exec_prependTrace s es i).trans (congrArg (prependOut es) ht)

end Sys2Proof.Machine
end

section
/-!
SUPPORT. Refusals (60_exceptions.md R230, R233, 70_reset_and_hazards.md R262): a refusal is a next state that differs in its
answer alone, and which tests stand before each unit's operations.
-/

namespace Sys2Proof.Machine

/-! ### A refusal is a next state -/

/-- The outcome `o` is a next state, which is `s` but for the answer if the answer is a refusal (R230, R233). -/
def RefusesOnly (s : State) (o : Out) : Prop :=
  ∃ t, o = .next t ∧ ∀ r, t.result = .refused r → t = s.answer (.refused r)

section Outcomes

variable {s t : State}

theorem refusesOnly_refuse (r : Refusal) : RefusesOnly s (refuse s r) := by
  refine ⟨_, rfl, fun r' hr => ?_⟩
  cases hr
  rfl

theorem refusesOnly_done {a : Result} (ha : ∀ r, a ≠ .refused r) : RefusesOnly s (done t a) :=
  ⟨_, rfl, fun r hr => absurd hr (ha r)⟩

theorem refusesOnly_whenWritten {w : Bool} {k : Out} (hk : RefusesOnly s k) : RefusesOnly s (whenWritten w s k) := by
  cases w with
  | true => exact hk
  | false => exact refusesOnly_refuse _

theorem refusesOnly_whenNoFault {f : Option Fault} {k : Out} (hk : RefusesOnly s k) :
    RefusesOnly s (whenNoFault f s k) := by
  cases f with
  | none => exact hk
  | some e => exact refusesOnly_refuse _

theorem refusesOnly_popQueue (q : List Octet) (put : List Octet → State) : RefusesOnly s (popQueue q s put) := by
  cases q with
  | nil => exact refusesOnly_refuse _
  | cons b rest => exact refusesOnly_done nofun

/-- R233: an operation that was performed answers its result or a fault. -/
theorem faultOr_ne_refused (f : Option Fault) (r : Refusal) : faultOr f .none ≠ .refused r := by
  cases f with
  | none | some => nofun

theorem refusesOnly_dInput (d : Decomp) : RefusesOnly s (dInput s d) :=
  refusesOnly_whenWritten (refusesOnly_whenNoFault (refusesOnly_done (faultOr_ne_refused _)))

theorem refusesOnly_lPump {a : Result} (ha : ∀ r, a ≠ .refused r) : RefusesOnly s (lPump s (done t a)) :=
  refusesOnly_whenWritten (refusesOnly_whenNoFault (refusesOnly_done ha))

end Outcomes

/-- R230, R233: the 58 rows by the shape of their meaning; V14.SETSB (R80), a POP of an empty queue and the tests before an
operation are all that refuses. -/
theorem exec_refusesOnly (i : Instr) (s : State) : RefusesOnly s (exec i s) := by
  cases i with
  | v14Setsb n =>
    refine refusesOnly_whenWritten ?_
    split
    · exact refusesOnly_refuse _
    · exact refusesOnly_done nofun
  | v14Tx | v14Flush | v14Rsb | hCrc16 | hSendframe | hSendflag | cWrite | cCmode | cFlush =>
    exact refusesOnly_whenWritten (refusesOnly_done nofun)
  | v14Rx | v14Rxbit =>
    refine refusesOnly_whenWritten (refusesOnly_done ?_)
    split <;> nofun
  | v14Pop | hPop | cPop | dPop => exact refusesOnly_whenWritten (refusesOnly_popQueue _ _)
  | v14Reset | hReset | lReset | cReset | dReset => exact refusesOnly_done nofun
  | hRxbit b =>
    refine refusesOnly_whenWritten ?_
    split <;> exact refusesOnly_done nofun
  | lTxbit => exact refusesOnly_lPump nofun
  | lRxbit | v14Char | odp | adp | flag | abort | frame | iFrame | rr | rnr | rej | srej | sOther | sabme | disc | ua | xid
  | uOther | xidFi | xidGroupPublic | xidGroupPrivate | xidGroupUserdata | xidParamTxsize | xidParamWindow
  | xidParamCompreq => exact refusesOnly_lPump (faultOr_ne_refused _)
  | dWrite | tData | ecm | eid | tReset | tBadcmd | cwEtm | cwFlush | cwStepup | cwData => exact refusesOnly_dInput _

/-! ### The tests before an operation -/

section Tests

variable {i : Instr} {s : State}

/-- R211, logs 13 and 14: every operation of D but its RESET and D.POP gives it octets or a codeword of its stream. -/
theorem exec_eq_dInput (hi : unitOf i = .d) (hreset : i ≠ .dReset) (hpop : i ≠ .dPop) (s : State) :
    ∃ d, exec i s = dInput s d := by
  cases i with
  | dReset => exact absurd rfl hreset
  | dPop => exact absurd rfl hpop
  | dWrite | tData | ecm | eid | tReset | tBadcmd | cwEtm | cwFlush | cwStepup | cwData => exact ⟨_, rfl⟩
  | _ => cases hi

/-- R262: every operation of a unit but its RESET stands behind the unit's written flag. -/
theorem exec_eq_whenWritten (hreset : i ≠ (unitOf i).reset) (s : State) :
    ∃ k, exec i s = whenWritten (s.written.unit (unitOf i)) s k := by
  cases i with
  | v14Reset | hReset | lReset | cReset | dReset => exact absurd rfl hreset
  | _ => exact ⟨_, rfl⟩

theorem exec_of_unwritten (hw : s.written.unit (unitOf i) = false) (hreset : i ≠ (unitOf i).reset) :
    exec i s = .next (s.answer (.refused .unwritten)) := by
  obtain ⟨k, hk⟩ := exec_eq_whenWritten hreset s
  rw [hk]
  exact whenWritten_next_iff.mpr (.inl ⟨hw, rfl⟩)

theorem exec_of_d_fault (hi : unitOf i = .d) (hreset : i ≠ .dReset) (hpop : i ≠ .dPop) (hw : s.written.d = true)
    (hf : s.d.fault ≠ none) : exec i s = .next (s.answer (.refused .faultLatched)) := by
  obtain ⟨d, hd⟩ := exec_eq_dInput hi hreset hpop s
  rw [hd]
  exact dInput_next_iff.mpr (.inr (.inl ⟨hw, hf, rfl⟩))

theorem exec_of_l_fault (hi : unitOf i = .l) (hreset : i ≠ .lReset) (hw : s.written.l = true) (hf : s.l.fault ≠ none) :
    exec i s = .next (s.answer (.refused .faultLatched)) := by
  obtain ⟨k, hk⟩ := exec_eq_lPump hi hreset s
  rw [hk]
  exact lPump_next_iff.mpr (.inr (.inl ⟨hw, hf, rfl⟩))

end Tests

/-- Settles O51: `exec_refusesOnly`, then a lemma for each test before an operation. -/
theorem refusalChangesNothing : Obligations.RefusalChangesNothing := fun i s =>
  ⟨exec_refusesOnly i s, exec_of_unwritten, exec_of_d_fault, exec_of_l_fault⟩

end Sys2Proof.Machine
end
